-- ==== Sys2Proof/Word.lean ====
section
/-! DEFINITION. The bit-vector types of the oscillator core: an operand, a command word, a response datum. -/

namespace Sys2Proof

/-- One 32-bit operand or register pattern (30_encoding.md R71, R73). -/
abbrev Word := BitVec 32

/-- The packed 100-bit command word `{op, c, b, a}` (30_encoding.md R71). -/
abbrev CmdWord := BitVec 100

/-- The 64 bits of response data (30_encoding.md R75). -/
abbrev Data := BitVec 64

end Sys2Proof
end

