-- ==== Sys2Proof/Config.lean ====
section
/-! DEFINITION. The parameters of 00_scope.md R6 and the one family of free values of the model. -/

namespace Sys2Proof.Config

/-! Widths (00_scope.md R6). State and the decoder write these widths as literals; a test shows that they agree. -/

abbrev phaseW : Nat := 32
abbrev sampleRateW : Nat := 24
abbrev freqFrac : Nat := 8
abbrev freqW : Nat := 32
abbrev gainFrac : Nat := 16
abbrev ampW : Nat := 32
abbrev dcW : Nat := 32
abbrev shapeW : Nat := 18
abbrev outW : Nat := 33
abbrev phoffFrac : Nat := 24
abbrev phoffW : Nat := 26
abbrev wtypeW : Nat := 3
abbrev lutEntries : Nat := 257
abbrev lutW : Nat := 17
abbrev lutIdxW : Nat := 8
abbrev lutFracW : Nat := 16
abbrev rampW : Nat := 18
abbrev lfsrW : Nat := 32
abbrev opW : Nat := 4
abbrev operandW : Nat := 32
abbrev responseW : Nat := 64

/-- `LFSR_MASK`, the Galois feedback mask (00_scope.md R6, 43_shapers.md R201). -/
def lfsrMask : Word := 0x80200003#32

/-- `LFSR_STEPS`, single-bit steps per noise sample (00_scope.md R6, 43_shapers.md R203). -/
def lfsrSteps : Nat := 32

/-- `LFSR_FALLBACK`, loaded when the effective seed is 0 (00_scope.md R6, 40_construction.md R103). -/
def lfsrFallback : Word := 0xFFFFFFFF#32

/-- `DEFAULT_SR`, the sample rate of `DEFAULT` in hertz (00_scope.md R6, 40_construction.md R106). -/
def defaultSampleRate : BitVec 24 := 44100#24

/-- `DEFAULT_FREQ`, the frequency of `DEFAULT`, 440 Hz in units of 1/256 Hz (00_scope.md R6, 40_construction.md R106). -/
def defaultFrequency : Int := 112640

/-- The nine data registers of 10_state.md R20, as the index of a free value. -/
inductive DataReg where
  | sampleRate | freq | phaseInc | amp | dc | phoff | wtype | phase | lfsr
deriving DecidableEq, Repr

/-- FREE VALUE (notes/assumptions/2.md). What data register `r` holds after the hardware reset number `draw`:
70_reset_and_hazards.md R261 calls it unspecified. Nothing can be proved of it. -/
opaque unspecified (w : Nat) (r : DataReg) (draw : Nat) : BitVec w

end Sys2Proof.Config
end

