-- ==== Sys2Proof/Syntax.lean ====
section
/-! DEFINITION. The sixteen commands, the waveform types, and the textual form of a command line. -/

namespace Sys2Proof

/-- One constructor per row of the opcode map (30_encoding.md R72). A constructor carries the operands its command
uses, as raw 32-bit patterns; operands a command does not use are ignored (R74) and are not part of the term. -/
inductive Instr where
  | process
  | reset
  | new (a b : Word)
  | newWithType (a b c : Word)
  | default
  | setFrequency (a : Word)
  | setAmplitude (a : Word)
  | setDcOffset (a : Word)
  | setPhaseOffset (a : Word)
  | setWaveformType (a : Word)
  | getFrequency
  | getAmplitude
  | getDcOffset
  | getPhaseOffset
  | getWaveformType
  | getWaveformName
deriving DecidableEq, Repr

/-- The three constructor commands (30_encoding.md R72; 40_construction.md R100). -/
def Instr.isConstructor : Instr → Bool
  | .new _ _ => true
  | .newWithType _ _ _ => true
  | .default => true
  | .process => false
  | .reset => false
  | .setFrequency _ => false
  | .setAmplitude _ => false
  | .setDcOffset _ => false
  | .setPhaseOffset _ => false
  | .setWaveformType _ => false
  | .getFrequency => false
  | .getAmplitude => false
  | .getDcOffset => false
  | .getPhaseOffset => false
  | .getWaveformType => false
  | .getWaveformName => false

/-- The five waveform variants, in the order of their discriminants 0 to 4 (30_encoding.md R83). -/
inductive WaveformType where
  | sine | square | triangle | sawtooth | noise
deriving DecidableEq, Repr

/-- The sixteen opcodes (30_encoding.md R72). -/
inductive Opcode where
  | process | reset | new | newWithType | default
  | setFrequency | setAmplitude | setDcOffset | setPhaseOffset | setWaveformType
  | getFrequency | getAmplitude | getDcOffset | getPhaseOffset | getWaveformType | getWaveformName
deriving DecidableEq, Repr

/-- All opcodes, in the order of their numbers (30_encoding.md R72). -/
def Opcode.all : List Opcode :=
  [.process, .reset, .new, .newWithType, .default, .setFrequency, .setAmplitude, .setDcOffset, .setPhaseOffset,
    .setWaveformType, .getFrequency, .getAmplitude, .getDcOffset, .getPhaseOffset, .getWaveformType, .getWaveformName]

/-- Why a number is not a command word: it does not fit the 100 bits of 30_encoding.md R71. -/
inductive DecodeError where
  | widerThanCommand
deriving DecidableEq, Repr

/-! ## The textual syntax of 30_encoding.md R81 -/

/-- How an operand is read (30_encoding.md R73). -/
inductive Reading where
  | unsigned | signed
deriving DecidableEq, Repr

/-- The readings of the used operands of a command, in the order `a`, `b`, `c` (30_encoding.md R72, R73). -/
def Opcode.readings : Opcode → List Reading
  | .new => [.unsigned, .signed]
  | .newWithType => [.unsigned, .signed, .unsigned]
  | .setFrequency => [.signed]
  | .setAmplitude => [.signed]
  | .setDcOffset => [.signed]
  | .setPhaseOffset => [.signed]
  | .setWaveformType => [.unsigned]
  | .process => []
  | .reset => []
  | .default => []
  | .getFrequency => []
  | .getAmplitude => []
  | .getDcOffset => []
  | .getPhaseOffset => []
  | .getWaveformType => []
  | .getWaveformName => []

/-- Whether the opcode is a constructor's (30_encoding.md R72; 40_construction.md R100). -/
def Opcode.isConstructor : Opcode → Bool
  | .new => true
  | .newWithType => true
  | .default => true
  | .process => false
  | .reset => false
  | .setFrequency => false
  | .setAmplitude => false
  | .setDcOffset => false
  | .setPhaseOffset => false
  | .setWaveformType => false
  | .getFrequency => false
  | .getAmplitude => false
  | .getDcOffset => false
  | .getPhaseOffset => false
  | .getWaveformType => false
  | .getWaveformName => false

/-- A written operand: a decimal with or without a leading minus sign, or a hexadecimal literal (30_encoding.md R81). -/
inductive Literal where
  | decimal (n : Nat)
  | negative (n : Nat)
  | hexadecimal (n : Nat)
deriving DecidableEq, Repr

/-- A seed annotation: none, `!seed=<value>` or `!noseed` (30_encoding.md R81). -/
inductive SeedNote where
  | absent
  | seed (value : Literal)
  | noseed
deriving DecidableEq, Repr

/-- One written command (30_encoding.md R81): the mnemonic's opcode, the operands, the annotation. -/
structure CmdLine where
  op : Opcode
  operands : List Literal
  note : SeedNote
deriving DecidableEq, Repr

end Sys2Proof
end

