-- ==== Sys2Proof/WellFormed.lean ====
section
/-! DEFINITION. What is well-formed: a packed command number, and a written command line (30_encoding.md R71, R81).
An `Instr` needs no check: its operands are 32-bit patterns, and every 100-bit word is a command (R79). -/

namespace Sys2Proof

/-- A number is a packed command when it fits the 100 bits of the command word (30_encoding.md R71). -/
def packedWellFormed (w : Nat) : Bool := decide (w < 2 ^ 100)

/-- The value fits 32 bits (30_encoding.md R81): as a pattern, or, for a negative decimal, in two's complement. -/
def Literal.fits : Literal → Bool
  | .decimal n => decide (n < 2 ^ 32)
  | .negative n => decide (n ≤ 2 ^ 31)
  | .hexadecimal n => decide (n < 2 ^ 32)

/-- A leading minus sign is allowed only for an operand whose reading is signed (30_encoding.md R81). -/
def Literal.signAllowed : Reading → Literal → Bool
  | .unsigned, .negative _ => false
  | .unsigned, .decimal _ => true
  | .unsigned, .hexadecimal _ => true
  | .signed, _ => true

/-- Exactly the used operands are written (30_encoding.md R81). -/
def CmdLine.operandCountOk (l : CmdLine) : Bool := l.operands.length == l.op.readings.length

/-- Every minus sign stands on a signed operand (30_encoding.md R81). -/
def CmdLine.signsOk (l : CmdLine) : Bool := (l.op.readings.zipWith Literal.signAllowed l.operands).all id

/-- Every operand fits 32 bits (30_encoding.md R81). -/
def CmdLine.operandsFit (l : CmdLine) : Bool := l.operands.all Literal.fits

/-- Only a constructor may carry a seed annotation (30_encoding.md R81). -/
def CmdLine.notePlaceOk (l : CmdLine) : Bool :=
  match l.note with
  | .absent => true
  | .seed _ => l.op.isConstructor
  | .noseed => l.op.isConstructor

/-- A seed value is a 32-bit unsigned pattern (30_encoding.md R70, R81). -/
def CmdLine.noteValueOk (l : CmdLine) : Bool :=
  match l.note with
  | .absent => true
  | .seed v => v.fits && Literal.signAllowed .unsigned v
  | .noseed => true

/-- A command line the assembler accepts (30_encoding.md R81). -/
def CmdLine.wellFormed (l : CmdLine) : Bool :=
  l.operandCountOk && l.signsOk && l.operandsFit && l.notePlaceOk && l.noteValueOk

end Sys2Proof
end

