-- ==== Sys2Proof/Decode.lean ====
section
/-! DEFINITION. The command word: its fields, the decoder (total on every 100-bit word, 30_encoding.md R79) and the encoder. -/

namespace Sys2Proof

/-! ## Fields of the packed word (30_encoding.md R71) -/

/-- `CMD[99:96]`. -/
def fieldOp (w : CmdWord) : BitVec 4 := w.extractLsb' 96 4

/-- `CMD[95:64]`. -/
def fieldC (w : CmdWord) : Word := w.extractLsb' 64 32

/-- `CMD[63:32]`. -/
def fieldB (w : CmdWord) : Word := w.extractLsb' 32 32

/-- `CMD[31:0]`. -/
def fieldA (w : CmdWord) : Word := w.extractLsb' 0 32

/-- `CMD[99:0] = {op, c, b, a}` (30_encoding.md R71). -/
def packCmd (op : BitVec 4) (c b a : Word) : CmdWord := op ++ c ++ b ++ a

/-! ## The opcode map (30_encoding.md R72) -/

/-- The command an opcode value names, bit 3 first; all sixteen values are assigned (30_encoding.md R72, R79). -/
def Opcode.ofBits (v : BitVec 4) : Opcode :=
  match v.getLsbD 3, v.getLsbD 2, v.getLsbD 1, v.getLsbD 0 with
  | false, false, false, false => .process
  | false, false, false, true => .reset
  | false, false, true, false => .new
  | false, false, true, true => .newWithType
  | false, true, false, false => .default
  | false, true, false, true => .setFrequency
  | false, true, true, false => .setAmplitude
  | false, true, true, true => .setDcOffset
  | true, false, false, false => .setPhaseOffset
  | true, false, false, true => .setWaveformType
  | true, false, true, false => .getFrequency
  | true, false, true, true => .getAmplitude
  | true, true, false, false => .getDcOffset
  | true, true, false, true => .getPhaseOffset
  | true, true, true, false => .getWaveformType
  | true, true, true, true => .getWaveformName

/-- The number of a command (30_encoding.md R72). -/
def Opcode.bits : Opcode → BitVec 4
  | .process => 0x0#4
  | .reset => 0x1#4
  | .new => 0x2#4
  | .newWithType => 0x3#4
  | .default => 0x4#4
  | .setFrequency => 0x5#4
  | .setAmplitude => 0x6#4
  | .setDcOffset => 0x7#4
  | .setPhaseOffset => 0x8#4
  | .setWaveformType => 0x9#4
  | .getFrequency => 0xA#4
  | .getAmplitude => 0xB#4
  | .getDcOffset => 0xC#4
  | .getPhaseOffset => 0xD#4
  | .getWaveformType => 0xE#4
  | .getWaveformName => 0xF#4

/-- The command with the given operand fields; a field the command does not use is dropped (30_encoding.md R72, R74). -/
def Opcode.instr (op : Opcode) (c b a : Word) : Instr :=
  match op with
  | .process => .process
  | .reset => .reset
  | .new => .new a b
  | .newWithType => .newWithType a b c
  | .default => .default
  | .setFrequency => .setFrequency a
  | .setAmplitude => .setAmplitude a
  | .setDcOffset => .setDcOffset a
  | .setPhaseOffset => .setPhaseOffset a
  | .setWaveformType => .setWaveformType a
  | .getFrequency => .getFrequency
  | .getAmplitude => .getAmplitude
  | .getDcOffset => .getDcOffset
  | .getPhaseOffset => .getPhaseOffset
  | .getWaveformType => .getWaveformType
  | .getWaveformName => .getWaveformName

/-- Decoding of a command word; `op` alone identifies the command (30_encoding.md R72, R79). -/
def decode (w : CmdWord) : Instr := (Opcode.ofBits (fieldOp w)).instr (fieldC w) (fieldB w) (fieldA w)

/-- Decoding of a number: refused by name when it is wider than the command port (30_encoding.md R71, R80; log 9). -/
def decodePacked (w : Nat) : Except DecodeError Instr :=
  if packedWellFormed w then .ok (decode (BitVec.ofNat 100 w)) else .error .widerThanCommand

/-- The instruction read from a row of the opcode table whose bits are `w`: the bits from `nbits` up are 0. -/
def decodeTableWord (nbits w : Nat) : Option Instr :=
  match decodePacked (w % 2 ^ nbits) with
  | .ok i => some i
  | .error _ => none

/-! ## The encoder -/

/-- The opcode of a command (30_encoding.md R72). -/
def Instr.opcode : Instr → Opcode
  | .process => .process
  | .reset => .reset
  | .new _ _ => .new
  | .newWithType _ _ _ => .newWithType
  | .default => .default
  | .setFrequency _ => .setFrequency
  | .setAmplitude _ => .setAmplitude
  | .setDcOffset _ => .setDcOffset
  | .setPhaseOffset _ => .setPhaseOffset
  | .setWaveformType _ => .setWaveformType
  | .getFrequency => .getFrequency
  | .getAmplitude => .getAmplitude
  | .getDcOffset => .getDcOffset
  | .getPhaseOffset => .getPhaseOffset
  | .getWaveformType => .getWaveformType
  | .getWaveformName => .getWaveformName

/-- The command word of an instruction; a field the command does not use is 0, as the assembler writes it
(30_encoding.md R71, R72, R81). -/
def encode : Instr → CmdWord
  | .process => packCmd 0x0#4 0 0 0
  | .reset => packCmd 0x1#4 0 0 0
  | .new a b => packCmd 0x2#4 0 b a
  | .newWithType a b c => packCmd 0x3#4 c b a
  | .default => packCmd 0x4#4 0 0 0
  | .setFrequency a => packCmd 0x5#4 0 0 a
  | .setAmplitude a => packCmd 0x6#4 0 0 a
  | .setDcOffset a => packCmd 0x7#4 0 0 a
  | .setPhaseOffset a => packCmd 0x8#4 0 0 a
  | .setWaveformType a => packCmd 0x9#4 0 0 a
  | .getFrequency => packCmd 0xA#4 0 0 0
  | .getAmplitude => packCmd 0xB#4 0 0 0
  | .getDcOffset => packCmd 0xC#4 0 0 0
  | .getPhaseOffset => packCmd 0xD#4 0 0 0
  | .getWaveformType => packCmd 0xE#4 0 0 0
  | .getWaveformName => packCmd 0xF#4 0 0 0

end Sys2Proof
end

