-- ==== Sys2Proof/Machine/State.lean ====
section
/-! DEFINITION. The block's state record, the ten registers of 10_state.md R20; the ports it stands at; and the two together
with the model's own draw counter, which a step takes to the next. -/

namespace Sys2Proof.Machine

/-- The four statuses of a response (30_encoding.md R77). -/
inductive Status where
  /-- The command was executed. -/
  | ok
  /-- A command other than a constructor while `CONSTRUCTED = 0` (60_exceptions.md R233). -/
  | errNotConstructed
  /-- The sample-rate operand of a constructor is 0 or at least 2^24 (60_exceptions.md R234). -/
  | errSampleRate
  /-- A type discriminant operand is greater than 4 (60_exceptions.md R235). -/
  | errWaveformType
deriving DecidableEq, Repr

/-- One response: `rsp_status` and `rsp_data` (30_encoding.md R75). -/
structure Response where
  status : Status
  data : Data
deriving DecidableEq, Repr

/-- What the host does at the ports, one event for each step that is not idle (notes/assumptions/3.md). -/
inductive HostEvent where
  /-- A command is presented and accepted, with the seed port values sampled at its acceptance (30_encoding.md R76, R78). -/
  | command (word : CmdWord) (seedOk : Bool) (seedIn : Word)
  /-- `rst = 1` at a clock edge (70_reset_and_hazards.md R260). -/
  | hardwareReset
deriving DecidableEq, Repr

/-- Why the model stops. Both reasons belong to states that no run reaches. -/
inductive Fault where
  /-- Raised by `PROCESS` and `GET_WAVEFORM_NAME` on a constructed block whose `WTYPE` holds 5, 6 or 7: 42_process.md R162
  says to treat these values as unreachable and give them no meaning. Safe: the model stops (notes/assumptions/6.md). -/
  | waveformTypeUnreachable
  /-- Raised by `SET_FREQUENCY` on a constructed block whose `SAMPLE_RATE` holds 0: by 10_state.md R24 the division of
  rule R122 never meets that divisor. Safe: the model stops (notes/assumptions/7.md). -/
  | sampleRateZero
deriving DecidableEq, Repr

/-- Why the model has no answer. -/
inductive Refusal where
  /-- Raised by the dispatcher for a command without a meaning; no command is in that case. Safe. -/
  | notModelled (mnemonic : String)
deriving DecidableEq, Repr

/-- The state record of the block: the ten registers of 10_state.md R20 and nothing else. What 10_state.md R33 says is not
state (the commands to come, the seed port, the last response) has no place in it: a command reads those as inputs and
answers its response as an output (`Block → Completion`, in Ops). -/
structure Block where
  /-- `SAMPLE_RATE`, unsigned hertz (10_state.md R24). -/
  sampleRate : BitVec 24
  /-- `FREQ`, unsigned, hertz × 256 (R25). -/
  freq : BitVec 32
  /-- `PHASE_INC`, unsigned, units of 2^−32 turn per sample (R26). -/
  phaseInc : BitVec 32
  /-- `AMP`, two's complement, amplitude × 65536 (R27). -/
  amp : BitVec 32
  /-- `DC`, two's complement, offset × 65536 (R28). -/
  dc : BitVec 32
  /-- `PHOFF`, two's complement, units of 2^−24 turn (R29). -/
  phoff : BitVec 26
  /-- `WTYPE`, the waveform-type discriminant (R30). -/
  wtype : BitVec 3
  /-- `PHASE`, the phase accumulator, units of 2^−32 turn (R31). -/
  phase : BitVec 32
  /-- `LFSR`, the noise generator (R32). -/
  lfsr : BitVec 32
  /-- `CONSTRUCTED`, the one flag (R23). -/
  constructed : Bool
deriving DecidableEq, Repr

/-- What stands at the block's ports, outside the block: the inputs the host and the seed source drive (00_scope.md R5,
10_state.md R33 (c), (d)) and the output of the last step (R33 (e)). -/
structure Ports where
  /-- `seed_ok` as sampled with the command in execution (30_encoding.md R78; notes/assumptions/4.md). -/
  seedOk : Bool
  /-- `seed_in` as sampled with the command in execution (30_encoding.md R78; notes/assumptions/4.md). -/
  seedIn : Word
  /-- The response port: `none` is `rsp_valid = 0` (30_encoding.md R75, R76; notes/assumptions/5.md). -/
  rsp : Option Response
  /-- What the host will do at the ports, next event first (notes/assumptions/3.md). -/
  host : List HostEvent
deriving DecidableEq, Repr

/-- The closed system a step takes to the next: the block and, since `step` has no other argument or result, its ports
(notes/assumptions/15.md). The block's own state record is `toBlock`. -/
structure State extends Block, Ports where
  /-- The model's own: how many hardware resets took place, the argument of the free values (notes/assumptions/2.md). -/
  draws : Nat
deriving DecidableEq, Repr

/-- The state after hardware reset (70_reset_and_hazards.md R260, R261): `CONSTRUCTED = 0`, no response. The nine data
registers are unspecified there; DESIGN CHOICE: they hold 0 (notes/assumptions/1.md). -/
def State.reset : State where
  sampleRate := 0
  freq := 0
  phaseInc := 0
  amp := 0
  dc := 0
  phoff := 0
  wtype := 0
  phase := 0
  lfsr := 0
  constructed := false
  seedOk := false
  seedIn := 0
  rsp := none
  host := []
  draws := 0

end Sys2Proof.Machine
end

