-- ==== Sys2Proof/Machine/Operands.lean ====
section
/-! DEFINITION. How patterns are read and written as integers, and how each operand is checked or normalised. -/

namespace Sys2Proof.Machine

/-! ## Integers and patterns (00_scope.md R9, R10) -/

/-- `v[hi:lo]` as an unsigned integer (00_scope.md R9). -/
def slice {n : Nat} (v : BitVec n) (hi lo : Nat) : Nat := v.toNat / 2 ^ lo % 2 ^ (hi + 1 - lo)

/-- `u_32` (00_scope.md R10). -/
def u32 (v : Word) : Nat := v.toNat

/-- `s_32` (00_scope.md R10). -/
def s32 (v : Word) : Int := v.toInt

/-- `asr(x, k) = floor(x / 2^k)` (00_scope.md R9). -/
def asr (x : Int) (k : Nat) : Int := x / 2 ^ k

/-- `sext_64` (00_scope.md R10). -/
def sext64 (x : Int) : Data := BitVec.ofInt 64 x

/-- `zext_64` (00_scope.md R10). -/
def zext64 (x : Nat) : Data := BitVec.ofNat 64 x

/-! ## The sample-rate operand -/

/-- A legal sample-rate operand: `u_32(a)` from 1 to 2^24 − 1 (30_encoding.md R73, 40_construction.md R102). -/
def sampleRateLegal (a : Word) : Bool := decide (u32 a ≠ 0 ∧ u32 a < 2 ^ 24)

/-- The value `SAMPLE_RATE` takes from the operand, `none` for an operand to be rejected (40_construction.md R102). -/
def readSampleRate (a : Word) : Option (BitVec 24) :=
  if sampleRateLegal a then some (BitVec.ofNat 24 (u32 a)) else none

/-! ## The waveform type -/

/-- The discriminant of a variant, as `WTYPE` holds it (30_encoding.md R83, 10_state.md R30). -/
def WaveformType.code : WaveformType → BitVec 3
  | .sine => 0#3
  | .square => 1#3
  | .triangle => 2#3
  | .sawtooth => 3#3
  | .noise => 4#3

/-- The variant a `WTYPE` pattern names; 5, 6 and 7 name none (10_state.md R30, 42_process.md R162). -/
def WaveformType.ofBits (v : BitVec 3) : Option WaveformType :=
  match v.getLsbD 2, v.getLsbD 1, v.getLsbD 0 with
  | false, false, false => some .sine
  | false, false, true => some .square
  | false, true, false => some .triangle
  | false, true, true => some .sawtooth
  | true, false, false => some .noise
  | true, false, true => none
  | true, true, false => none
  | true, true, true => none

/-- A legal discriminant operand: the whole 32-bit value is compared with 4 (30_encoding.md R83). -/
def discriminantLegal (c : Word) : Bool := decide (u32 c ≤ 4)

/-- `WTYPE` from a discriminant operand: `u_32(c)[2:0]` where the conversion succeeds (41_configuration.md R130). -/
def readDiscriminant (c : Word) : Option (BitVec 3) :=
  if discriminantLegal c then some (BitVec.ofNat 3 (slice c 2 0)) else none

/-! ## The frequency operand -/

/-- The Nyquist limit in units of 1/256 Hz (41_configuration.md R121). -/
def nyquist (rate : Nat) : Nat := 128 * rate

/-- The clamp of a requested frequency into [0, Nyquist limit] (41_configuration.md R121, 40_construction.md R101). -/
def clampFrequency (f : Int) (rate : Nat) : Nat :=
  if f < 0 then 0 else if f > nyquist rate then nyquist rate else f.toNat

/-- The tuning-word unit: `floor(F × 2^24 / SAMPLE_RATE)` (41_configuration.md R122). -/
def tuningWord (freq rate : Nat) : Nat := freq * 2 ^ 24 / rate

/-! ## The phase-offset operand -/

/-- One turn in phase-offset units, the `T` of 41_configuration.md R128. -/
def phaseOffsetTurn : Int := 2 ^ 24

/-- The three-branch normalisation of 41_configuration.md R128, over the mathematical integers. -/
def normalisePhaseOffset (p : Int) : Int :=
  if p > phaseOffsetTurn then p % phaseOffsetTurn
  else if p < -phaseOffsetTurn then -((-p) % phaseOffsetTurn)
  else p

/-! ## The seed -/

/-- The seed rule of 40_construction.md R103: a failed read counts as 0, and 0 is replaced by the fallback. -/
def seedValue (seedOk : Bool) (seedIn : Word) : Word :=
  let e := if seedOk then seedIn else 0#32
  if e = 0#32 then Config.lfsrFallback else e

/-! ## The waveform name -/

/-- The name's ASCII bytes, first to last (41_configuration.md R133). -/
def nameBytes : WaveformType → List (BitVec 8)
  | .sine => [0x53#8, 0x69#8, 0x6E#8, 0x65#8]
  | .square => [0x53#8, 0x71#8, 0x75#8, 0x61#8, 0x72#8, 0x65#8]
  | .triangle => [0x54#8, 0x72#8, 0x69#8, 0x61#8, 0x6E#8, 0x67#8, 0x6C#8, 0x65#8]
  | .sawtooth => [0x53#8, 0x61#8, 0x77#8, 0x74#8, 0x6F#8, 0x6F#8, 0x74#8, 0x68#8]
  | .noise => [0x4E#8, 0x6F#8, 0x69#8, 0x73#8, 0x65#8]

/-- The packing of a name: the first byte in bits 7 to 0, unused high bytes 0 (20_memory.md R52). -/
def packName : List (BitVec 8) → Data
  | [] => 0
  | b :: bs => (packName bs <<< 8) ||| b.setWidth 64

end Sys2Proof.Machine
end

