-- ==== Sys2Proof/Machine/Ops.lean ====
section
/-! DEFINITION. The named operations: what a command of the block is (its response, its rejection, its running in the
system), the tuning unit, construction, the hardware reset, and taking the next event from the host. -/

namespace Sys2Proof.Machine

/-- `rsp_status` of a status (30_encoding.md R77). -/
def Status.code : Status → BitVec 2
  | .ok => 0#2
  | .errNotConstructed => 1#2
  | .errSampleRate => 2#2
  | .errWaveformType => 3#2

/-! ## A command of the block -/

/-- What a command that goes on leaves: the ten registers after it, and its one response as an output (30_encoding.md R75). -/
structure Completion where
  block : Block
  response : Response
deriving DecidableEq, Repr

/-- What a command does to the block: it completes, or it stops for a named reason. -/
abbrev CommandOutcome := Host.Outcome Completion Fault Refusal

/-- `reject <STATUS>`, the whole exception mechanism: no register is written and the response is `(cause, 0)`
(00_scope.md R11, 60_exceptions.md R231). The machine goes on (R231 (d)). -/
def rejectWith (cause : Status) (b : Block) : CommandOutcome := .next ⟨b, ⟨cause, 0⟩⟩

/-- `respond(d)`: the command ends with registers `b` and the response `(OK, d)` (00_scope.md R11, 30_encoding.md R75). -/
def answer (b : Block) (d : Data) : CommandOutcome := .next ⟨b, ⟨.ok, d⟩⟩

/-- The registers a command leaves, in place, and its response at the response port; nothing else of the system changes. -/
def State.complete (s : State) (b : Block) (r : Response) : State := { s with toBlock := b, rsp := some r }

/-- A command runs on the block's registers alone (00_scope.md R5, 10_state.md R33): the host's events to come, the last
response and the draw counter are not among its inputs. -/
def State.perform (s : State) (command : Block → CommandOutcome) : Host.Outcome State Fault Refusal :=
  match command s.toBlock with
  | .next c => .next (s.complete c.block c.response)
  | .fault r => .fault r
  | .refused r => .refused r

/-! ## The tuning-word unit and construction -/

/-- The clamp and the tuning word applied with the sample rate in place: `FREQ` and `PHASE_INC` are written together
(41_configuration.md R121, R122). -/
def Block.tune (b : Block) (f : Int) : Block :=
  { b with
    freq := BitVec.ofNat 32 (clampFrequency f b.sampleRate.toNat)
    phaseInc := BitVec.ofNat 32 (tuningWord (clampFrequency f b.sampleRate.toNat) b.sampleRate.toNat) }

/-- The register writes of `NEW` with a legal sample rate; the frequency is applied after the sample rate is in place
(40_construction.md R101, 10_state.md R37). `seed` is what the seed rule gives (R103). -/
def Block.construct (b : Block) (rate : BitVec 24) (f : Int) (seed : Word) : Block :=
  { b with
    sampleRate := rate
    amp := 65536#32
    dc := 0#32
    phoff := 0#26
    wtype := 0#3
    phase := 0#32
    lfsr := seed
    constructed := true }.tune f

/-! ## The host side -/

/-- The registers after hardware reset number `draw`: `CONSTRUCTED` is 0 and each data register holds an unspecified value,
a fresh free value (70_reset_and_hazards.md R260, R261; notes/assumptions/2.md). -/
def Block.afterHardwareReset (draw : Nat) : Block where
  sampleRate := Config.unspecified 24 .sampleRate draw
  freq := Config.unspecified 32 .freq draw
  phaseInc := Config.unspecified 32 .phaseInc draw
  amp := Config.unspecified 32 .amp draw
  dc := Config.unspecified 32 .dc draw
  phoff := Config.unspecified 26 .phoff draw
  wtype := Config.unspecified 3 .wtype draw
  phase := Config.unspecified 32 .phase draw
  lfsr := Config.unspecified 32 .lfsr draw
  constructed := false

/-- The hardware reset: the block as R261 leaves it, and no response (70_reset_and_hazards.md R260). -/
def State.hardwareReset (s : State) : State :=
  { s with toBlock := Block.afterHardwareReset s.draws, rsp := none, draws := s.draws + 1 }

/-- A clock edge without an event: the registers are held and no response is valid
(30_encoding.md R76, 60_exceptions.md R246). -/
def State.idle (s : State) : State := { s with rsp := none }

/-- Acceptance of a command: it leaves the host's stream and the seed port is sampled with it (30_encoding.md R76, R78). -/
def State.accept (s : State) (seedOk : Bool) (seedIn : Word) (rest : List HostEvent) : State :=
  { s with seedOk := seedOk, seedIn := seedIn, host := rest }

/-- What the ports hold for the next step. -/
inductive Fetched where
  /-- Nothing is presented. -/
  | nothing
  /-- `rst` is asserted; `s` is the state with that event taken from the host. -/
  | reset (s : State)
  /-- Command `i` is accepted; `s` is the state it executes in. -/
  | command (i : Instr) (s : State)
deriving DecidableEq, Repr

/-- The next event at the ports (30_encoding.md R76; notes/assumptions/3.md). -/
def fetch (s : State) : Fetched :=
  match s.host with
  | [] => .nothing
  | .hardwareReset :: rest => .reset { s with host := rest }
  | .command word seedOk seedIn :: rest => .command (decode word) (s.accept seedOk seedIn rest)

end Sys2Proof.Machine
end

