-- ==== Sys2Proof/Machine/Flags.lean ====
section
/-! DEFINITION. The one flag, `CONSTRUCTED` (10_state.md R23). There are no condition codes. -/

namespace Sys2Proof.Machine

/-- The first check of every command but the constructors: while `CONSTRUCTED = 0` the command is rejected and nothing else
about it is evaluated (41_configuration.md R120 (a), 60_exceptions.md R233). -/
def whenConstructed (b : Block) (body : CommandOutcome) : CommandOutcome :=
  if b.constructed then body else rejectWith .errNotConstructed b

end Sys2Proof.Machine
end

