-- ==== Sys2Proof/Machine/Configuration.lean ====
section
/-! DEFINITION. The configuration commands: `SET_*`, `GET_*` and `RESET` (41_configuration.md). -/

namespace Sys2Proof.Machine

/-- `SET_FREQUENCY a` (41_configuration.md R121, R122). A `SAMPLE_RATE` of 0 is unreachable (10_state.md R24). -/
def execSetFrequency (a : Word) (s : State) : Host.Outcome State Fault Refusal :=
  s.perform fun block => whenConstructed block
    (if block.sampleRate = 0 then .fault .sampleRateZero else answer (block.tune (s32 a)) 0)

/-- `SET_AMPLITUDE a` (41_configuration.md R124). -/
def execSetAmplitude (a : Word) (s : State) : Host.Outcome State Fault Refusal :=
  s.perform fun block => whenConstructed block (answer { block with amp := a } 0)

/-- `SET_DC_OFFSET a` (41_configuration.md R126). -/
def execSetDcOffset (a : Word) (s : State) : Host.Outcome State Fault Refusal :=
  s.perform fun block => whenConstructed block (answer { block with dc := a } 0)

/-- `SET_PHASE_OFFSET a` (41_configuration.md R128). -/
def execSetPhaseOffset (a : Word) (s : State) : Host.Outcome State Fault Refusal :=
  s.perform fun block => whenConstructed block
    (answer { block with phoff := BitVec.ofInt 26 (normalisePhaseOffset (s32 a)) } 0)

/-- `SET_WAVEFORM_TYPE a` (41_configuration.md R130). -/
def execSetWaveformType (a : Word) (s : State) : Host.Outcome State Fault Refusal :=
  s.perform fun block => whenConstructed block
    (match readDiscriminant a with
      | none => rejectWith .errWaveformType block
      | some t => answer { block with wtype := t } 0)

/-- `RESET` (41_configuration.md R132): `PHASE` and nothing else. -/
def execReset (s : State) : Host.Outcome State Fault Refusal :=
  s.perform fun block => whenConstructed block (answer { block with phase := 0#32 } 0)

/-- `GET_FREQUENCY` (41_configuration.md R123). -/
def execGetFrequency (s : State) : Host.Outcome State Fault Refusal :=
  s.perform fun block => whenConstructed block (answer block (zext64 block.freq.toNat))

/-- `GET_AMPLITUDE` (41_configuration.md R125). -/
def execGetAmplitude (s : State) : Host.Outcome State Fault Refusal :=
  s.perform fun block => whenConstructed block (answer block (sext64 block.amp.toInt))

/-- `GET_DC_OFFSET` (41_configuration.md R127). -/
def execGetDcOffset (s : State) : Host.Outcome State Fault Refusal :=
  s.perform fun block => whenConstructed block (answer block (sext64 block.dc.toInt))

/-- `GET_PHASE_OFFSET` (41_configuration.md R129). -/
def execGetPhaseOffset (s : State) : Host.Outcome State Fault Refusal :=
  s.perform fun block => whenConstructed block (answer block (sext64 block.phoff.toInt))

/-- `GET_WAVEFORM_TYPE` (41_configuration.md R131). -/
def execGetWaveformType (s : State) : Host.Outcome State Fault Refusal :=
  s.perform fun block => whenConstructed block (answer block (zext64 block.wtype.toNat))

/-- `GET_WAVEFORM_NAME` (41_configuration.md R133). -/
def execGetWaveformName (s : State) : Host.Outcome State Fault Refusal :=
  s.perform fun block => whenConstructed block
    (match WaveformType.ofBits block.wtype with
      | some t => answer block (packName (nameBytes t))
      | none => .fault .waveformTypeUnreachable)

end Sys2Proof.Machine
end

