-- ==== Sys2Proof/Machine/Construction.lean ====
section
/-! DEFINITION. The constructor commands `NEW`, `NEW_WITH_TYPE`, `DEFAULT` (40_construction.md). They alone read the seed
port, as sampled with the command (30_encoding.md R78). -/

namespace Sys2Proof.Machine

/-- `NEW a, b` (40_construction.md R101, R102). -/
def execNew (a b : Word) (s : State) : Host.Outcome State Fault Refusal :=
  s.perform fun block =>
    match readSampleRate a with
    | none => rejectWith .errSampleRate block
    | some rate => answer (block.construct rate (s32 b) (seedValue s.seedOk s.seedIn)) 0

/-- `NEW_WITH_TYPE a, b, c` (40_construction.md R104); the type is checked first (R105). -/
def execNewWithType (a b c : Word) (s : State) : Host.Outcome State Fault Refusal :=
  s.perform fun block =>
    match readDiscriminant c with
    | none => rejectWith .errWaveformType block
    | some t =>
      match readSampleRate a with
      | none => rejectWith .errSampleRate block
      | some rate => answer { block.construct rate (s32 b) (seedValue s.seedOk s.seedIn) with wtype := t } 0

/-- `DEFAULT` (40_construction.md R106): it cannot be rejected. -/
def execDefault (s : State) : Host.Outcome State Fault Refusal :=
  s.perform fun block =>
    answer (block.construct Config.defaultSampleRate Config.defaultFrequency (seedValue s.seedOk s.seedIn)) 0

end Sys2Proof.Machine
end

