-- ==== Sys2Proof/Machine/Shapers.lean ====
section
/-! DEFINITION. The five shapers of 43_shapers.md and the waveform multiplexer of 42_process.md R162. -/

namespace Sys2Proof.Machine

/-! ## Sine: ROM and linear interpolator -/

/-- The position folded into the rising quarter: `p` in quadrants 0 and 2, `2^30 − p` in quadrants 1 and 3
(43_shapers.md R194). -/
def sineFold (phase : Word) : Nat :=
  if slice phase 30 30 = 0 then slice phase 29 0 else 2 ^ 30 - slice phase 29 0

/-- The interpolated table value at the folded position `m` (43_shapers.md R194). The entries never decrease (R192), so
the difference of neighbours is the natural-number one. -/
def sineInterpolate (m : Nat) : Nat :=
  let idx := m / 2 ^ 22
  let fr := m / 2 ^ 6 % 2 ^ 16
  if idx = 256 then romRead 256
  else romRead idx + (romRead (idx + 1) - romRead idx) * fr / 2 ^ 16

/-- `SineShape(PHASE)` (43_shapers.md R194). -/
def sineShape (phase : Word) : Int :=
  if slice phase 31 31 = 0 then (sineInterpolate (sineFold phase) : Int) else -(sineInterpolate (sineFold phase) : Int)

/-! ## Square, triangle, sawtooth: comparator and ramp generator -/

/-- `T = PHASE[31:14]` (43_shapers.md R196). -/
def rampPhase (phase : Word) : Nat := slice phase 31 14

/-- `SquareShape(PHASE)` (43_shapers.md R197). -/
def squareShape (phase : Word) : Int := if slice phase 31 31 = 0 then 65536 else -65536

/-- `TriangleShape(PHASE)` (43_shapers.md R198). -/
def triangleShape (phase : Word) : Int :=
  if rampPhase phase < 131072 then (rampPhase phase : Int) - 65536 else 196608 - (rampPhase phase : Int)

/-- `SawtoothShape(PHASE)` (43_shapers.md R199). -/
def sawtoothShape (phase : Word) : Int := ((rampPhase phase / 2 : Nat) : Int) - 65536

/-! ## Noise: the LFSR -/

/-- `LfsrStep(L)`, one single-bit step (43_shapers.md R201). -/
def lfsrStep (l : Word) : Word := if l.getLsbD 0 then (l >>> 1) ^^^ Config.lfsrMask else l >>> 1

/-- `LfsrStep` applied `n` times in a row (43_shapers.md R203). -/
def lfsrSteps : Nat → Word → Word
  | 0, l => l
  | n + 1, l => lfsrSteps n (lfsrStep l)

/-- `LfsrAdvance(L)` (43_shapers.md R203). -/
def lfsrAdvance (l : Word) : Word := lfsrSteps Config.lfsrSteps l

/-- `NoiseShape(L) = s_17(L[31:15])` (43_shapers.md R204). -/
def noiseShape (l : Word) : Int := (BitVec.ofNat 17 (slice l 31 15)).toInt

/-! ## The multiplexer -/

/-- The raw shape value `S` of the selected shaper (42_process.md R160 step 1, R162). -/
def shape (t : WaveformType) (phase lfsr : Word) : Int :=
  match t with
  | .sine => sineShape phase
  | .square => squareShape phase
  | .triangle => triangleShape phase
  | .sawtooth => sawtoothShape phase
  | .noise => noiseShape lfsr

end Sys2Proof.Machine
end

