-- ==== Sys2Proof/Machine/Process.lean ====
section
/-! DEFINITION. `PROCESS`: the gain and offset stage, the phase accumulator, the command (42_process.md). -/

namespace Sys2Proof.Machine

/-- The gain and offset stage: `OUT = DC + asr(S × AMP, 16)` (42_process.md R165). -/
def gainStage (shapeValue amp dc : Int) : Int := dc + asr (shapeValue * amp) 16

/-- The sample the block would answer now for variant `t` (42_process.md R160 steps 1 and 2, R161). -/
def Block.sample (b : Block) (t : WaveformType) : Int := gainStage (shape t b.phase b.lfsr) b.amp.toInt b.dc.toInt

/-- The state update of `PROCESS`: `PHASE` advances modulo 2^32 for every variant, `LFSR` for Noise alone
(42_process.md R163, R164). -/
def Block.advance (b : Block) (t : WaveformType) : Block :=
  { b with
    phase := b.phase + b.phaseInc
    lfsr := if t = .noise then lfsrAdvance b.lfsr else b.lfsr }

/-- `PROCESS` (42_process.md R160). The sample is of the registers before the update (R161). -/
def execProcess (s : State) : Host.Outcome State Fault Refusal :=
  s.perform fun block => whenConstructed block
    (match WaveformType.ofBits block.wtype with
      | some t => answer (block.advance t) (sext64 (block.sample t))
      | none => .fault .waveformTypeUnreachable)

end Sys2Proof.Machine
end

