-- ==== Sys2Proof/Machine/Dispatch.lean ====
section
/-! DEFINITION. Each command's meaning. -/

namespace Sys2Proof.Machine

def exec (i : Instr) (s : State) : Host.Outcome State Fault Refusal :=
  match i with
  | .process => Sys2Proof.Machine.execProcess s
  | .reset => Sys2Proof.Machine.execReset s
  | .new a b => Sys2Proof.Machine.execNew a b s
  | .newWithType a b c => Sys2Proof.Machine.execNewWithType a b c s
  | .default => Sys2Proof.Machine.execDefault s
  | .setFrequency a => Sys2Proof.Machine.execSetFrequency a s
  | .setAmplitude a => Sys2Proof.Machine.execSetAmplitude a s
  | .setDcOffset a => Sys2Proof.Machine.execSetDcOffset a s
  | .setPhaseOffset a => Sys2Proof.Machine.execSetPhaseOffset a s
  | .setWaveformType a => Sys2Proof.Machine.execSetWaveformType a s
  | .getFrequency => Sys2Proof.Machine.execGetFrequency s
  | .getAmplitude => Sys2Proof.Machine.execGetAmplitude s
  | .getDcOffset => Sys2Proof.Machine.execGetDcOffset s
  | .getPhaseOffset => Sys2Proof.Machine.execGetPhaseOffset s
  | .getWaveformType => Sys2Proof.Machine.execGetWaveformType s
  | .getWaveformName => Sys2Proof.Machine.execGetWaveformName s

end Sys2Proof.Machine
end

