-- ==== Sys2Proof/Machine/Step.lean ====
section
/-! DEFINITION. One step: one host event, or one idle edge (00_scope.md R12, 30_encoding.md R76). -/

namespace Sys2Proof.Machine

/-- One step of the machine: the next accepted command runs atomically; an asserted `rst` resets the block; with nothing
presented the block holds its registers (60_exceptions.md R246; notes/assumptions/3.md). -/
def step (s : State) : Host.Outcome State Fault Refusal :=
  match fetch s with
  | .nothing => .next s.idle
  | .reset s' => .next s'.hardwareReset
  | .command i s' => exec i s'

/-- The host presents the table word `w` next, with the seed port as it stands (notes/assumptions/3.md). -/
def State.withFetchWord (s : State) (nbits w : Nat) : State :=
  { s with host := .command (BitVec.ofNat 100 (w % 2 ^ nbits)) s.seedOk s.seedIn :: s.host }

end Sys2Proof.Machine
end

