-- ==== Sys2Proof/Machine/Assembler.lean ====
section
/-! DEFINITION. The textual command syntax of 30_encoding.md R81: from a line of text to the host event it stands for. -/

namespace Sys2Proof.Machine

/-! ## From a written command to its word -/

/-- The 32-bit pattern a literal assembles to (30_encoding.md R81): `-n` is the two's-complement pattern. -/
def literalWord : Literal → Word
  | .decimal n => BitVec.ofNat 32 n
  | .negative n => BitVec.ofInt 32 (-(n : Int))
  | .hexadecimal n => BitVec.ofNat 32 n

/-- Operand number `k` of a line; an operand that is not written assembles to 0 (30_encoding.md R81). -/
def operandWord (l : CmdLine) (k : Nat) : Word :=
  match l.operands[k]? with
  | some v => literalWord v
  | none => 0

/-- The command word of a well-formed line (30_encoding.md R71, R81). -/
def assemble (l : CmdLine) : Option CmdWord :=
  if l.wellFormed then some (packCmd l.op.bits (operandWord l 2) (operandWord l 1) (operandWord l 0)) else none

/-- The host event of a line: an annotation fixes the seed port, and what it leaves free is as the pins stand
(30_encoding.md R81). -/
def lineEvent (l : CmdLine) (pinOk : Bool) (pinIn : Word) : Option HostEvent :=
  match assemble l with
  | none => none
  | some w =>
    match l.note with
    | .absent => some (.command w pinOk pinIn)
    | .seed v => some (.command w true (literalWord v))
    | .noseed => some (.command w false pinIn)

/-! ## From text to a written command -/

/-- The mnemonic of a command (30_encoding.md R72). -/
def mnemonic : Opcode → List Char
  | .process => ['P', 'R', 'O', 'C', 'E', 'S', 'S']
  | .reset => ['R', 'E', 'S', 'E', 'T']
  | .new => ['N', 'E', 'W']
  | .newWithType => ['N', 'E', 'W', '_', 'W', 'I', 'T', 'H', '_', 'T', 'Y', 'P', 'E']
  | .default => ['D', 'E', 'F', 'A', 'U', 'L', 'T']
  | .setFrequency => ['S', 'E', 'T', '_', 'F', 'R', 'E', 'Q', 'U', 'E', 'N', 'C', 'Y']
  | .setAmplitude => ['S', 'E', 'T', '_', 'A', 'M', 'P', 'L', 'I', 'T', 'U', 'D', 'E']
  | .setDcOffset => ['S', 'E', 'T', '_', 'D', 'C', '_', 'O', 'F', 'F', 'S', 'E', 'T']
  | .setPhaseOffset => ['S', 'E', 'T', '_', 'P', 'H', 'A', 'S', 'E', '_', 'O', 'F', 'F', 'S', 'E', 'T']
  | .setWaveformType => ['S', 'E', 'T', '_', 'W', 'A', 'V', 'E', 'F', 'O', 'R', 'M', '_', 'T', 'Y', 'P', 'E']
  | .getFrequency => ['G', 'E', 'T', '_', 'F', 'R', 'E', 'Q', 'U', 'E', 'N', 'C', 'Y']
  | .getAmplitude => ['G', 'E', 'T', '_', 'A', 'M', 'P', 'L', 'I', 'T', 'U', 'D', 'E']
  | .getDcOffset => ['G', 'E', 'T', '_', 'D', 'C', '_', 'O', 'F', 'F', 'S', 'E', 'T']
  | .getPhaseOffset => ['G', 'E', 'T', '_', 'P', 'H', 'A', 'S', 'E', '_', 'O', 'F', 'F', 'S', 'E', 'T']
  | .getWaveformType => ['G', 'E', 'T', '_', 'W', 'A', 'V', 'E', 'F', 'O', 'R', 'M', '_', 'T', 'Y', 'P', 'E']
  | .getWaveformName => ['G', 'E', 'T', '_', 'W', 'A', 'V', 'E', 'F', 'O', 'R', 'M', '_', 'N', 'A', 'M', 'E']

/-- The opcode a mnemonic names (30_encoding.md R81: mnemonics are upper case). -/
def opcodeOfMnemonic (cs : List Char) : Option Opcode := Opcode.all.find? fun op => mnemonic op == cs

/-- Blank characters between the parts of a line (notes/assumptions/12.md). -/
def isBlank (c : Char) : Bool := c == ' ' || c == '\t' || c == '\r'

/-- Without leading and trailing blanks. -/
def trim (cs : List Char) : List Char := ((cs.dropWhile isBlank).reverse.dropWhile isBlank).reverse

/-- The value of a decimal digit. -/
def decimalDigit (c : Char) : Option Nat :=
  if 48 ≤ c.toNat ∧ c.toNat ≤ 57 then some (c.toNat - 48) else none

/-- The value of a hexadecimal digit, in either letter case (notes/assumptions/12.md). -/
def hexDigit (c : Char) : Option Nat :=
  if 48 ≤ c.toNat ∧ c.toNat ≤ 57 then some (c.toNat - 48)
  else if 65 ≤ c.toNat ∧ c.toNat ≤ 70 then some (c.toNat - 55)
  else if 97 ≤ c.toNat ∧ c.toNat ≤ 102 then some (c.toNat - 87)
  else none

/-- The number the digits write in a base, after `acc`. -/
def readDigits (digit : Char → Option Nat) (base : Nat) : Nat → List Char → Option Nat
  | acc, [] => some acc
  | acc, c :: cs =>
    match digit c with
    | some d => readDigits digit base (acc * base + d) cs
    | none => none

/-- A number of at least one digit. -/
def readNumber (digit : Char → Option Nat) (base : Nat) (cs : List Char) : Option Nat :=
  match cs with
  | [] => none
  | c :: rest => readDigits digit base 0 (c :: rest)

/-- An operand literal (30_encoding.md R81). -/
def readLiteral (cs : List Char) : Option Literal :=
  match cs with
  | '-' :: rest => (readNumber decimalDigit 10 rest).map Literal.negative
  | '0' :: 'x' :: rest => (readNumber hexDigit 16 rest).map Literal.hexadecimal
  | other => (readNumber decimalDigit 10 other).map Literal.decimal

/-- The pieces of a text between commas, each without surrounding blanks; a text of blanks has none. -/
def commaPieces : List Char → List (List Char)
  | [] => [[]]
  | c :: cs =>
    match commaPieces cs with
    | [] => [[c]]
    | piece :: rest => if c == ',' then [] :: piece :: rest else (c :: piece) :: rest

/-- All literals of a list of pieces, or none at all. -/
def readLiterals : List (List Char) → Option (List Literal)
  | [] => some []
  | piece :: rest =>
    match readLiteral (trim piece), readLiterals rest with
    | some v, some vs => some (v :: vs)
    | _, _ => none

/-- The operand part of a line: comma-separated literals (30_encoding.md R81). -/
def readOperands (cs : List Char) : Option (List Literal) :=
  match trim cs with
  | [] => some []
  | c :: rest => readLiterals (commaPieces (c :: rest))

/-- The annotation part of a line, from its exclamation mark on (30_encoding.md R81). -/
def readNote (cs : List Char) : Option SeedNote :=
  match trim cs with
  | [] => some .absent
  | '!' :: 's' :: 'e' :: 'e' :: 'd' :: '=' :: value => (readLiteral value).map SeedNote.seed
  | ['!', 'n', 'o', 's', 'e', 'e', 'd'] => some .noseed
  | _ => none

/-- The command of a line's text: a semicolon starts a comment, then come the mnemonic, the operands and the annotation
(30_encoding.md R81). -/
def readLine (text : List Char) : Option CmdLine :=
  let body := trim (text.takeWhile fun c => c != ';')
  let name := body.takeWhile fun c => !(isBlank c || c == '!')
  let rest := body.dropWhile fun c => !(isBlank c || c == '!')
  match opcodeOfMnemonic name, readOperands (rest.takeWhile fun c => c != '!'), readNote (rest.dropWhile fun c => c != '!') with
  | some op, some operands, some note => some ⟨op, operands, note⟩
  | _, _, _ => none

end Sys2Proof.Machine
end

