-- ==== Sys2Proof/Machine/Quantities.lean ====
section
/-! DEFINITION. The real quantities the registers stand for (00_scope.md R7) and the raw values of real quantities
(30_encoding.md R84). All are rationals: an angle is counted in turns, 2π rad being one turn (notes/assumptions/13.md). -/

namespace Sys2Proof.Machine

/-- `SAMPLE_RATE` in hertz (00_scope.md R7). -/
def Block.sampleRateHz (b : Block) : ℚ := b.sampleRate.toNat

/-- `FREQ` in hertz (00_scope.md R7). -/
def Block.frequencyHz (b : Block) : ℚ := b.freq.toNat / 256

/-- The amplitude (00_scope.md R7). -/
def Block.amplitudeValue (b : Block) : ℚ := b.amp.toInt / 65536

/-- The DC offset (00_scope.md R7). -/
def Block.dcOffsetValue (b : Block) : ℚ := b.dc.toInt / 65536

/-- The phase in turns (00_scope.md R7). -/
def Block.phaseTurns (b : Block) : ℚ := b.phase.toNat / 2 ^ 32

/-- The phase increment in turns per sample (00_scope.md R7). -/
def Block.phaseIncrementTurns (b : Block) : ℚ := b.phaseInc.toNat / 2 ^ 32

/-- The phase offset in turns (00_scope.md R7). -/
def Block.phaseOffsetTurns (b : Block) : ℚ := b.phoff.toInt / 2 ^ 24

/-- The value a raw shape value or a raw sample stands for (00_scope.md R7). -/
def gainValue (raw : Int) : ℚ := raw / 65536

/-- The integer a rational is, if it is one. -/
def exactInt (x : ℚ) : Option Int := if x.den = 1 then some x.num else none

/-- The raw frequency of `f` hertz, where it is exact (30_encoding.md R84). -/
def rawFrequency (f : ℚ) : Option Int := exactInt (f * 256)

/-- The raw amplitude or offset of `x`, where it is exact (30_encoding.md R84). -/
def rawGain (x : ℚ) : Option Int := exactInt (x * 65536)

/-- The raw phase offset of `p` turns, where it is exact (30_encoding.md R84). -/
def rawPhaseOffset (p : ℚ) : Option Int := exactInt (p * 2 ^ 24)

end Sys2Proof.Machine
end

