-- ==== Sys2Proof/Safety.lean ====
section
/-! DEFINITION. What counts as a safe run: the invariant of 10_state.md R38, commands run in a row, and runs whose
unspecified registers are told apart from what can be observed. -/

namespace Sys2Proof.Machine

/-- 10_state.md R38 (a) to (g), at a constructed block. (g), `0 <= PHASE < 2^32`, is the width of the register and is
written as a bound all the same. -/
abbrev Block.Legal (b : Block) : Prop :=
  (1 ≤ b.sampleRate.toNat ∧ b.sampleRate.toNat ≤ 2 ^ 24 - 1) ∧
  b.freq.toNat ≤ 128 * b.sampleRate.toNat ∧
  (b.phaseInc.toNat = b.freq.toNat * 2 ^ 24 / b.sampleRate.toNat ∧ b.phaseInc.toNat ≤ 2 ^ 31) ∧
  (-2 ^ 24 ≤ b.phoff.toInt ∧ b.phoff.toInt ≤ 2 ^ 24) ∧
  b.wtype.toNat ≤ 4 ∧
  b.lfsr ≠ 0 ∧
  b.phase.toNat < 2 ^ 32

/-- The invariant of 10_state.md R38: it speaks of `CONSTRUCTED = 1` alone. -/
abbrev Block.Inv (b : Block) : Prop := b.constructed = true → b.Legal

/-- Commands executed in a row, as the port accepts them (20_memory.md R58). -/
def execAll : List Instr → State → Host.Outcome State Fault Refusal
  | [], s => .next s
  | i :: is, s =>
    match exec i s with
    | .next t => execAll is t
    | .fault r => .fault r
    | .refused r => .refused r

/-- `n` `PROCESS` commands in a row. -/
def processTimes (n : Nat) (s : State) : Host.Outcome State Fault Refusal := execAll (List.replicate n .process) s

/-- Two states a host cannot tell apart by any response, now or later: equal, or both not constructed and alike in all but
the nine unspecified data registers (70_reset_and_hazards.md R261). -/
abbrev State.SameToHost (s t : State) : Prop :=
  s = t ∨
    (s.constructed = false ∧ t.constructed = false ∧ s.seedOk = t.seedOk ∧ s.seedIn = t.seedIn ∧ s.rsp = t.rsp ∧
      s.host = t.host ∧ s.draws = t.draws)

/-- An outcome that goes on, to a state a host cannot tell from the other's. -/
def outcomesSameToHost : Host.Outcome State Fault Refusal → Host.Outcome State Fault Refusal → Prop
  | .next s, .next t => s.SameToHost t
  | .fault r, .fault r' => r = r'
  | .refused r, .refused r' => r = r'
  | .next _, .fault _ => False
  | .next _, .refused _ => False
  | .fault _, .next _ => False
  | .fault _, .refused _ => False
  | .refused _, .next _ => False
  | .refused _, .fault _ => False

end Sys2Proof.Machine
end

