-- ==== Sys2Proof/Certificates/Slice0/Obligations.lean ====
section
/-! DEFINITION. The statements for the provers. Each docstring names the rules of spec/ it formalises. -/

open Sys2Proof Sys2Proof.Machine

/-! ## Encoding -/

/-- 30_encoding.md R71, R72: decoding an encoded command gives it back, as a command word and as a table word. -/
def Obligations.DecodeOfEncodeIsIdentity : Prop :=
  ∀ i : Instr, decode (encode i) = i ∧ ∀ nbits : Nat, 100 ≤ nbits → decodeTableWord nbits (encode i).toNat = some i

/-- 30_encoding.md R72, R74, R81: re-encoding a decoded word keeps the opcode and the used operand fields and writes 0 into
the unused ones. -/
def Obligations.EncodeOfDecodeKeepsUsedFields : Prop :=
  ∀ w : CmdWord,
    fieldOp (encode (decode w)) = fieldOp w ∧
    fieldA (encode (decode w)) = (if (fieldOp w).toNat ∈ [2, 3, 5, 6, 7, 8, 9] then fieldA w else 0) ∧
    fieldB (encode (decode w)) = (if (fieldOp w).toNat ∈ [2, 3] then fieldB w else 0) ∧
    fieldC (encode (decode w)) = (if (fieldOp w).toNat = 3 then fieldC w else 0)

/-- 30_encoding.md R74: operand fields a command does not use are ignored; for PROCESS all three are. -/
def Obligations.UnusedOperandFieldsAreIgnored : Prop :=
  (∀ (op : BitVec 4) (a b c a' b' c' : Word),
    (op.toNat ∈ [2, 3, 5, 6, 7, 8, 9] → a = a') → (op.toNat ∈ [2, 3] → b = b') → (op.toNat = 3 → c = c') →
    ∀ s : State, exec (decode (packCmd op c b a)) s = exec (decode (packCmd op c' b' a')) s) ∧
  ∀ a b c : Word, decode (packCmd 0 c b a) = .process

/-- 30_encoding.md R71: the command is the 100-bit word `{op, c, b, a}`, and its four fields are the whole of it. -/
def Obligations.PackedWordIsOpCBA : Prop :=
  (∀ (op : BitVec 4) (c b a : Word),
    (packCmd op c b a).toNat = op.toNat * 2 ^ 96 + c.toNat * 2 ^ 64 + b.toNat * 2 ^ 32 + a.toNat ∧
    fieldOp (packCmd op c b a) = op ∧ fieldC (packCmd op c b a) = c ∧
    fieldB (packCmd op c b a) = b ∧ fieldA (packCmd op c b a) = a) ∧
  ∀ w : CmdWord, packCmd (fieldOp w) (fieldC w) (fieldB w) (fieldA w) = w

/-- Words written out in 30_encoding.md R81 and 95_test_vectors.md decode to the commands they stand for. -/
def Obligations.DecoderReadsSpecWords : Prop :=
  decode 0x2000000000001B8000000AC44#100 = .new 44100#32 112640#32 ∧
  decode 0x3000000040003E8000000BB80#100 = .newWithType 48000#32 256000#32 4#32 ∧
  decode 0x4DEADBEEF1234567800000000#100 = .default ∧
  decode 0x50000000000000000FFFFFB00#100 = .setFrequency (BitVec.ofInt 32 (-1280)) ∧
  decode 0x80000000000000000FCFFFFFB#100 = .setPhaseOffset (BitVec.ofInt 32 (-50331653)) ∧
  decode 0xF000000000000000000000000#100 = .getWaveformName

/-! ## Steps -/

/-- 00_scope.md R12, 30_encoding.md R76, R78: a step at which the host presents a command runs the decoded command in the
state in which the seed port is sampled with it and the command has left the host's stream. -/
def Obligations.StepRunsTheDecodedCommand : Prop :=
  ∀ (s : State) (w : CmdWord) (ok : Bool) (seed : Word) (rest : List HostEvent),
    s.host = .command w ok seed :: rest →
    step s = exec (decode w) { s with seedOk := ok, seedIn := seed, host := rest }

/-- An encoded command placed by withFetchWord is the very one the next step runs (notes/assumptions/3.md). -/
def Obligations.FetchWordRunsTheInstruction : Prop :=
  ∀ (s : State) (i : Instr) (nbits : Nat), 100 ≤ nbits → step (s.withFetchWord nbits (encode i).toNat) = exec i s

/-- 60_exceptions.md R246, 30_encoding.md R76: with nothing presented every register is held, and the response, which is
valid for one cycle only, is gone. -/
def Obligations.IdleStepHoldsTheRegisters : Prop :=
  ∀ s : State, s.host = [] → step s = .next { s with rsp := none }

/-- 70_reset_and_hazards.md R260: rst clears CONSTRUCTED and leaves no response; it touches no port but its own event.
Nothing is said of the nine data registers (R261). That a later rst is an event of the model: notes/assumptions/2.md. -/
def Obligations.HardwareResetEventClearsConstructed : Prop :=
  ∀ (s : State) (rest : List HostEvent), s.host = .hardwareReset :: rest →
    ∃ t, step s = .next t ∧ t.constructed = false ∧ t.rsp = none ∧ t.host = rest ∧
      t.seedOk = s.seedOk ∧ t.seedIn = s.seedIn ∧ t.draws = s.draws + 1

/-- 10_state.md R36, 70_reset_and_hazards.md R261: after hardware reset CONSTRUCTED is 0 and no response is valid.
The values of the nine data registers are the model's own (notes/assumptions/1.md) and are not stated. -/
def Obligations.StateAfterHardwareReset : Prop :=
  State.reset.constructed = false ∧ State.reset.rsp = none

/-! ## Rejections -/

/-- 60_exceptions.md R233: while CONSTRUCTED = 0 every command but the three constructors is rejected with code 1,
whatever its operands are. -/
def Obligations.UnconstructedBlockRejectsAllButConstructors : Prop :=
  ∀ (i : Instr) (s : State), s.constructed = false → i.isConstructor = false →
    exec i s = .next { s with rsp := some ⟨.errNotConstructed, 0⟩ }

/-- 60_exceptions.md R232, R237: a command is rejected in exactly the listed cases, each with its code. -/
def Obligations.OnlyTheListedCausesReject : Prop :=
  ∀ (i : Instr) (s t : State), exec i s = .next t →
    ∃ (st : Status) (d : Data), t.rsp = some ⟨st, d⟩ ∧
      (st = .errNotConstructed ↔ i.isConstructor = false ∧ s.constructed = false) ∧
      (st = .errWaveformType ↔
        (∃ a, i = .setWaveformType a ∧ 4 < a.toNat ∧ s.constructed = true) ∨
        (∃ a b c, i = .newWithType a b c ∧ 4 < c.toNat)) ∧
      (st = .errSampleRate ↔
        (∃ a b, i = .new a b ∧ (a.toNat = 0 ∨ 2 ^ 24 ≤ a.toNat)) ∨
        (∃ a b c, i = .newWithType a b c ∧ c.toNat ≤ 4 ∧ (a.toNat = 0 ∨ 2 ^ 24 ≤ a.toNat))) ∧
      (Status.code .errNotConstructed = 1 ∧ Status.code .errSampleRate = 2 ∧ Status.code .errWaveformType = 3)

/-- 60_exceptions.md R231: a rejected command writes no register and answers (cause, 0). -/
def Obligations.RejectionChangesNoRegister : Prop :=
  ∀ (i : Instr) (s t : State) (st : Status) (d : Data),
    exec i s = .next t → t.rsp = some ⟨st, d⟩ → st ≠ .ok → t = { s with rsp := some ⟨st, 0⟩ }

/-- 30_encoding.md R75: every accepted command produces exactly one response, with the data of its row. -/
def Obligations.EveryCommandAnswersOnce : Prop :=
  ∀ (i : Instr) (s t : State), exec i s = .next t →
    ∃ (st : Status) (d : Data), t.rsp = some ⟨st, d⟩ ∧ (st ≠ .ok → d = 0) ∧
      (st = .ok →
        (i = .process → ∃ (w : WaveformType) (out : BitVec 33), WaveformType.ofBits s.wtype = some w ∧
          out.toInt = s.dc.toInt + shape w s.phase s.lfsr * s.amp.toInt / 65536 ∧ d = out.signExtend 64) ∧
        (i = .getAmplitude → d = s.amp.signExtend 64) ∧
        (i = .getDcOffset → d = s.dc.signExtend 64) ∧
        (i = .getPhaseOffset → d = s.phoff.signExtend 64) ∧
        (i = .getFrequency → d = s.freq.setWidth 64) ∧
        (i = .getWaveformType → d = s.wtype.setWidth 64) ∧
        (i = .getWaveformName → ∃ w, WaveformType.ofBits s.wtype = some w ∧ d = packName (nameBytes w)) ∧
        (i ∉ [.process, .getAmplitude, .getDcOffset, .getPhaseOffset, .getFrequency, .getWaveformType, .getWaveformName] →
          d = 0))

/-! ## Construction -/

/-- 40_construction.md R101, R102, R103 and 10_state.md R37: `NEW` with a legal sample rate writes all nine registers and
sets CONSTRUCTED; with an illegal one it is rejected. -/
def Obligations.NewConstructsOrRejects : Prop :=
  (∀ (s : State) (a b : Word), 1 ≤ a.toNat → a.toNat < 2 ^ 24 →
    ∃ t, exec (.new a b) s = .next t ∧
      t.sampleRate.toNat = a.toNat ∧
      (t.freq.toNat : Int) = max 0 (min b.toInt (128 * a.toNat)) ∧
      t.phaseInc.toNat = t.freq.toNat * 2 ^ 24 / a.toNat ∧
      t.amp = 65536 ∧ t.dc = 0 ∧ t.phoff = 0 ∧ t.wtype = 0 ∧ t.phase = 0 ∧
      t.lfsr = (if s.seedOk = true ∧ s.seedIn ≠ 0 then s.seedIn else 0xFFFFFFFF#32) ∧
      t.constructed = true ∧ t.rsp = some ⟨.ok, 0⟩ ∧
      t.seedOk = s.seedOk ∧ t.seedIn = s.seedIn ∧ t.host = s.host ∧ t.draws = s.draws) ∧
  (∀ (s : State) (a b : Word), a.toNat = 0 ∨ 2 ^ 24 ≤ a.toNat →
    exec (.new a b) s = .next { s with rsp := some ⟨.errSampleRate, 0⟩ })

/-- 40_construction.md R104, R105: `NEW_WITH_TYPE` checks the type, then the sample rate, and then constructs. -/
def Obligations.NewWithTypeConstructsOrRejects : Prop :=
  (∀ (s : State) (a b c : Word), c.toNat ≤ 4 → 1 ≤ a.toNat → a.toNat < 2 ^ 24 →
    ∃ t, exec (.newWithType a b c) s = .next t ∧
      t.sampleRate.toNat = a.toNat ∧
      (t.freq.toNat : Int) = max 0 (min b.toInt (128 * a.toNat)) ∧
      t.phaseInc.toNat = t.freq.toNat * 2 ^ 24 / a.toNat ∧
      t.amp = 65536 ∧ t.dc = 0 ∧ t.phoff = 0 ∧ t.wtype.toNat = c.toNat ∧ t.phase = 0 ∧
      t.lfsr = (if s.seedOk = true ∧ s.seedIn ≠ 0 then s.seedIn else 0xFFFFFFFF#32) ∧
      t.constructed = true ∧ t.rsp = some ⟨.ok, 0⟩ ∧
      t.seedOk = s.seedOk ∧ t.seedIn = s.seedIn ∧ t.host = s.host ∧ t.draws = s.draws) ∧
  (∀ (s : State) (a b c : Word), 4 < c.toNat →
    exec (.newWithType a b c) s = .next { s with rsp := some ⟨.errWaveformType, 0⟩ }) ∧
  (∀ (s : State) (a b c : Word), c.toNat ≤ 4 → (a.toNat = 0 ∨ 2 ^ 24 ≤ a.toNat) →
    exec (.newWithType a b c) s = .next { s with rsp := some ⟨.errSampleRate, 0⟩ })

/-- 40_construction.md R106, 10_state.md R37: `DEFAULT` cannot be rejected and leaves the listed state. -/
def Obligations.DefaultConstructsAlways : Prop :=
  ∀ s : State, exec .default s = .next { s with
    sampleRate := 44100, freq := 112640, phaseInc := 42852281, amp := 65536, dc := 0, phoff := 0, wtype := 0, phase := 0
    lfsr := if s.seedOk = true ∧ s.seedIn ≠ 0 then s.seedIn else 0xFFFFFFFF#32
    constructed := true, rsp := some ⟨.ok, 0⟩ }

/-- 30_encoding.md R82: (a) `DEFAULT` is `NEW 44100, 112640`; (b) a successful `NEW_WITH_TYPE a, b, c` leaves the state of
`NEW a, b` followed by `SET_WAVEFORM_TYPE c`, with the same seed inputs. -/
def Obligations.ConstructorEquivalences : Prop :=
  (∀ s : State, exec .default s = exec (.new 44100 112640) s) ∧
  (∀ (s : State) (a b c : Word), c.toNat ≤ 4 → 1 ≤ a.toNat → a.toNat < 2 ^ 24 →
    ∃ t, exec (.newWithType a b c) s = .next t ∧ execAll [.new a b, .setWaveformType c] s = .next t)

/-- 40_construction.md R107, 70_reset_and_hazards.md R263: a constructor that succeeds replaces the whole state: nothing of
the ten registers before it is left in the state after it. -/
def Obligations.ConstructionForgetsTheOldState : Prop :=
  ∀ (i : Instr) (s s' t : State), i.isConstructor = true → s.seedOk = s'.seedOk → s.seedIn = s'.seedIn →
    s.host = s'.host → s.draws = s'.draws →
    exec i s = .next t → t.rsp = some ⟨.ok, 0⟩ → exec i s' = .next t

/-! ## Configuration -/

/-- 41_configuration.md R121: the clamp, the tuning word, and nothing else; a sample rate of 0 is no legal register value
(10_state.md R24). -/
def Obligations.SetFrequencyClampsAndTunes : Prop :=
  (∀ (s : State) (a : Word), s.constructed = true → s.sampleRate ≠ 0 →
    ∃ t, exec (.setFrequency a) s = .next t ∧
      (t.freq.toNat : Int) = max 0 (min a.toInt (128 * s.sampleRate.toNat)) ∧
      t.phaseInc.toNat = t.freq.toNat * 2 ^ 24 / s.sampleRate.toNat ∧
      t = { s with freq := t.freq, phaseInc := t.phaseInc, rsp := some ⟨.ok, 0⟩ }) ∧
  (∀ (s : State) (a : Word), s.constructed = false →
    exec (.setFrequency a) s = .next { s with rsp := some ⟨.errNotConstructed, 0⟩ })

/-- 41_configuration.md R122: at a legal constructed block the increment, in turns per sample, is never above
frequency / sample rate and below it by less than 2^−32, and it is 2^31 exactly at the Nyquist limit. -/
def Obligations.TuningWordIsTheFlooredReference : Prop :=
  ∀ s : State, s.Legal →
    s.phaseIncrementTurns ≤ s.frequencyHz / s.sampleRateHz ∧
    s.frequencyHz / s.sampleRateHz < s.phaseIncrementTurns + 1 / 2 ^ 32 ∧
    s.phaseInc.toNat ≤ 2 ^ 31 ∧
    (s.phaseInc.toNat = 2 ^ 31 ↔ s.frequencyHz = s.sampleRateHz / 2)

/-- 41_configuration.md R124, R126: amplitude and offset are stored bit for bit, for every operand. -/
def Obligations.SetGainRegistersVerbatim : Prop :=
  ∀ (s : State) (a : Word),
    (s.constructed = true →
      exec (.setAmplitude a) s = .next { s with amp := a, rsp := some ⟨.ok, 0⟩ } ∧
      exec (.setDcOffset a) s = .next { s with dc := a, rsp := some ⟨.ok, 0⟩ }) ∧
    (s.constructed = false →
      exec (.setAmplitude a) s = .next { s with rsp := some ⟨.errNotConstructed, 0⟩ } ∧
      exec (.setDcOffset a) s = .next { s with rsp := some ⟨.errNotConstructed, 0⟩ })

/-- 41_configuration.md R128: unchanged inside [−2^24, 2^24], and outside it the remainder that keeps the operand's sign. -/
def Obligations.SetPhaseOffsetNormalises : Prop :=
  (∀ (s : State) (a : Word), s.constructed = true →
    ∃ t, exec (.setPhaseOffset a) s = .next t ∧
      (t.phoff.toInt = if -2 ^ 24 ≤ a.toInt ∧ a.toInt ≤ 2 ^ 24 then a.toInt else a.toInt.tmod (2 ^ 24)) ∧
      -2 ^ 24 ≤ t.phoff.toInt ∧ t.phoff.toInt ≤ 2 ^ 24 ∧
      t = { s with phoff := t.phoff, rsp := some ⟨.ok, 0⟩ }) ∧
  (∀ (s : State) (a : Word), s.constructed = false →
    exec (.setPhaseOffset a) s = .next { s with rsp := some ⟨.errNotConstructed, 0⟩ })

/-- 41_configuration.md R130 and 30_encoding.md R83: 0 to 4 are stored; every other value of the whole 32-bit operand is
rejected and `WTYPE` keeps its value. -/
def Obligations.SetWaveformTypeConvertsOrRejects : Prop :=
  (∀ (s : State) (a : Word), s.constructed = true → a.toNat ≤ 4 →
    ∃ t, exec (.setWaveformType a) s = .next t ∧ t.wtype.toNat = a.toNat ∧
      t = { s with wtype := t.wtype, rsp := some ⟨.ok, 0⟩ }) ∧
  (∀ (s : State) (a : Word), s.constructed = true → 4 < a.toNat →
    exec (.setWaveformType a) s = .next { s with rsp := some ⟨.errWaveformType, 0⟩ }) ∧
  (∀ (s : State) (a : Word), s.constructed = false →
    exec (.setWaveformType a) s = .next { s with rsp := some ⟨.errNotConstructed, 0⟩ })

/-- 41_configuration.md R132: the command RESET sets the phase to 0 and touches no other register. -/
def Obligations.ResetCommandClearsPhaseOnly : Prop :=
  ∀ s : State,
    (s.constructed = true → exec .reset s = .next { s with phase := 0, rsp := some ⟨.ok, 0⟩ }) ∧
    (s.constructed = false → exec .reset s = .next { s with rsp := some ⟨.errNotConstructed, 0⟩ })

/-- 41_configuration.md R123, R125, R127, R129, R131: a numeric getter answers its register, extended to 64 bits, and
writes nothing. -/
def Obligations.NumericGettersAnswerTheRegister : Prop :=
  ∀ s : State,
    (s.constructed = true →
      exec .getFrequency s = .next { s with rsp := some ⟨.ok, s.freq.setWidth 64⟩ } ∧
      exec .getAmplitude s = .next { s with rsp := some ⟨.ok, s.amp.signExtend 64⟩ } ∧
      exec .getDcOffset s = .next { s with rsp := some ⟨.ok, s.dc.signExtend 64⟩ } ∧
      exec .getPhaseOffset s = .next { s with rsp := some ⟨.ok, s.phoff.signExtend 64⟩ } ∧
      exec .getWaveformType s = .next { s with rsp := some ⟨.ok, s.wtype.setWidth 64⟩ }) ∧
    (s.constructed = false →
      ∀ i ∈ [Instr.getFrequency, .getAmplitude, .getDcOffset, .getPhaseOffset, .getWaveformType],
        exec i s = .next { s with rsp := some ⟨.errNotConstructed, 0⟩ })

/-- 41_configuration.md R133: the name of the current variant, packed as the table lists it. -/
def Obligations.GetWaveformNameAnswersTheName : Prop :=
  ∀ s : State,
    (s.constructed = true →
      (s.wtype = 0 → exec .getWaveformName s = .next { s with rsp := some ⟨.ok, 0x00000000656E6953⟩ }) ∧
      (s.wtype = 1 → exec .getWaveformName s = .next { s with rsp := some ⟨.ok, 0x0000657261757153⟩ }) ∧
      (s.wtype = 2 → exec .getWaveformName s = .next { s with rsp := some ⟨.ok, 0x656C676E61697254⟩ }) ∧
      (s.wtype = 3 → exec .getWaveformName s = .next { s with rsp := some ⟨.ok, 0x68746F6F74776153⟩ }) ∧
      (s.wtype = 4 → exec .getWaveformName s = .next { s with rsp := some ⟨.ok, 0x0000006573696F4E⟩ })) ∧
    (s.constructed = false → exec .getWaveformName s = .next { s with rsp := some ⟨.errNotConstructed, 0⟩ })

/-- 20_memory.md R58 (c) with 41_configuration.md R121, R124, R126, R128, R130: a getter after the setter of its register
answers what the setter stored. -/
def Obligations.SetThenGetAnswersWhatWasStored : Prop :=
  ∀ (s : State) (a : Word), s.constructed = true →
    (∃ t, execAll [.setAmplitude a, .getAmplitude] s = .next t ∧ t.rsp = some ⟨.ok, a.signExtend 64⟩) ∧
    (∃ t, execAll [.setDcOffset a, .getDcOffset] s = .next t ∧ t.rsp = some ⟨.ok, a.signExtend 64⟩) ∧
    (∃ t d, execAll [.setPhaseOffset a, .getPhaseOffset] s = .next t ∧ t.rsp = some ⟨.ok, d⟩ ∧
      d.toInt = if -2 ^ 24 ≤ a.toInt ∧ a.toInt ≤ 2 ^ 24 then a.toInt else a.toInt.tmod (2 ^ 24)) ∧
    (s.sampleRate ≠ 0 → ∃ t d, execAll [.setFrequency a, .getFrequency] s = .next t ∧ t.rsp = some ⟨.ok, d⟩ ∧
      d.toInt = max 0 (min a.toInt (128 * s.sampleRate.toNat))) ∧
    (a.toNat ≤ 4 → ∃ t, execAll [.setWaveformType a, .getWaveformType] s = .next t ∧
      t.rsp = some ⟨.ok, a.setWidth 64⟩)

/-! ## PROCESS and the shapers -/

/-- 42_process.md R160, R161, R162, R164: PROCESS answers the sample of the registers before the command, advances PHASE
always and LFSR for Noise alone, and writes nothing else. -/
def Obligations.ProcessRunsTheSelectedShaper : Prop :=
  ∀ s : State,
    (s.constructed = true →
      (s.wtype = 0 → exec .process s = .next { s with phase := s.phase + s.phaseInc
                                                      rsp := some ⟨.ok, BitVec.ofInt 64
                                                        (s.dc.toInt + sineShape s.phase * s.amp.toInt / 65536)⟩ }) ∧
      (s.wtype = 1 → exec .process s = .next { s with phase := s.phase + s.phaseInc
                                                      rsp := some ⟨.ok, BitVec.ofInt 64
                                                        (s.dc.toInt + squareShape s.phase * s.amp.toInt / 65536)⟩ }) ∧
      (s.wtype = 2 → exec .process s = .next { s with phase := s.phase + s.phaseInc
                                                      rsp := some ⟨.ok, BitVec.ofInt 64
                                                        (s.dc.toInt + triangleShape s.phase * s.amp.toInt / 65536)⟩ }) ∧
      (s.wtype = 3 → exec .process s = .next { s with phase := s.phase + s.phaseInc
                                                      rsp := some ⟨.ok, BitVec.ofInt 64
                                                        (s.dc.toInt + sawtoothShape s.phase * s.amp.toInt / 65536)⟩ }) ∧
      (s.wtype = 4 → exec .process s = .next { s with phase := s.phase + s.phaseInc
                                                      lfsr := lfsrAdvance s.lfsr
                                                      rsp := some ⟨.ok, BitVec.ofInt 64
                                                        (s.dc.toInt + noiseShape s.lfsr * s.amp.toInt / 65536)⟩ })) ∧
    (s.constructed = false → exec .process s = .next { s with rsp := some ⟨.errNotConstructed, 0⟩ })

/-- 42_process.md R165: the sample never lies above `dc_offset + s * amplitude` and lies below it by less than 2^−16, it
needs 33 bits and no more, and it is exact whenever the product is a multiple of 65536. -/
def Obligations.SampleIsTheFlooredReference : Prop :=
  ∀ (s : State) (w : WaveformType),
    let reference := s.dcOffsetValue + gainValue (shape w s.phase s.lfsr) * s.amplitudeValue
    gainValue (s.sample w) ≤ reference ∧ reference < gainValue (s.sample w) + 1 / 2 ^ 16 ∧
    -2 ^ 32 ≤ s.sample w ∧ s.sample w ≤ 2 ^ 32 - 1 ∧
    (65536 ∣ shape w s.phase s.lfsr * s.amp.toInt → gainValue (s.sample w) = reference)

/-- 43_shapers.md R207: the range of each shaper, with the values that are reached. -/
def Obligations.ShapeValuesStayInRange : Prop :=
  (∀ p : Word, -65536 ≤ sineShape p ∧ sineShape p ≤ 65536) ∧
  (∃ p, sineShape p = 65536) ∧ (∃ p, sineShape p = -65536) ∧
  (∀ p : Word, squareShape p = 65536 ∨ squareShape p = -65536) ∧
  (∃ p, squareShape p = 65536) ∧ (∃ p, squareShape p = -65536) ∧
  (∀ p : Word, -65536 ≤ triangleShape p ∧ triangleShape p ≤ 65536) ∧
  (∀ p : Word, triangleShape p = 65536 ↔ p.toNat / 2 ^ 14 = 131072) ∧
  (∀ p : Word, triangleShape p = -65536 ↔ p.toNat / 2 ^ 14 = 0) ∧
  (∀ p : Word, -65536 ≤ sawtoothShape p ∧ sawtoothShape p ≤ 65535) ∧
  (∀ l : Word, -65536 ≤ noiseShape l ∧ noiseShape l ≤ 65535)

/-- 43_shapers.md R194: the exact symmetries of the sine shaper and its values at the four quarter turns. -/
def Obligations.SineSymmetriesAreExact : Prop :=
  (∀ p : Word, sineShape (p + 0x80000000) = -sineShape p) ∧
  (∀ p : Word, 0 < p.toNat → p.toNat < 2 ^ 31 → sineShape (0x80000000 - p) = sineShape p) ∧
  sineShape 0 = 0 ∧ sineShape 0x40000000 = 65536 ∧ sineShape 0x80000000 = 0 ∧ sineShape 0xC0000000 = -65536

/-- 43_shapers.md R194 (derived there from R192): within quadrant 0 the sine shaper never decreases. -/
def Obligations.SineRisesInQuadrantZero : Prop :=
  ∀ p q : Word, p.toNat ≤ q.toNat → q.toNat < 2 ^ 30 → sineShape p ≤ sineShape q

/-- 43_shapers.md R194, R192: in quadrant 0 the sine shaper interpolates between the table entries by its top bits; hence
the low 6 bits do not matter and each table point returns its ROM entry; and the ROM passes the checks of R192. -/
def Obligations.SineDependsOnTheTopBitsAndHitsTheTable : Prop :=
  (∀ p : Word, p.toNat < 2 ^ 30 →
    sineShape p = romRead (p.toNat / 2 ^ 22) +
      (((romRead (p.toNat / 2 ^ 22 + 1) : Int) - romRead (p.toNat / 2 ^ 22)) * (p.toNat / 2 ^ 6 % 2 ^ 16 : Nat)) / 2 ^ 16) ∧
  (∀ p q : Word, p.toNat < 2 ^ 30 → q.toNat < 2 ^ 30 → p.toNat / 2 ^ 6 = q.toNat / 2 ^ 6 → sineShape p = sineShape q) ∧
  (∀ i : Nat, i ≤ 256 → sineShape (BitVec.ofNat 32 (i * 2 ^ 22)) = romRead i) ∧
  (∀ i : Nat, i < 256 → romRead i ≤ romRead (i + 1) ∧ romRead (i + 1) - romRead i ≤ 402) ∧
  sineRom.length = 257 ∧ romRead 0 = 0 ∧ romRead 128 = 46341 ∧ romRead 256 = 65536 ∧
  romRead 1 - romRead 0 = 402 ∧ (∀ i : Nat, i < 256 → 1 ≤ romRead (i + 1) - romRead i) ∧ romRead 256 - romRead 255 = 1 ∧
  (List.map romRead (List.range 257)).sum = 10713444

/-- 43_shapers.md R197, R198, R199: square, triangle and sawtooth by their formulas, with the sides on which the ramps
lie of the reference, `−65536 + PHASE / 2^14`, `196608 − PHASE / 2^14` and `−65536 + PHASE / 2^15`. -/
def Obligations.ComparatorAndRampShapes : Prop :=
  ∀ p : Word,
    (p.toNat < 2 ^ 31 → squareShape p = 65536) ∧ (2 ^ 31 ≤ p.toNat → squareShape p = -65536) ∧
    (p.toNat < 2 ^ 31 →
      triangleShape p = ((p.toNat / 2 ^ 14 : Nat) : Int) - 65536 ∧
      triangleShape p * 2 ^ 14 ≤ p.toNat - 65536 * 2 ^ 14 ∧ (p.toNat : Int) - 65536 * 2 ^ 14 < (triangleShape p + 1) * 2 ^ 14) ∧
    (2 ^ 31 ≤ p.toNat →
      triangleShape p = 196608 - ((p.toNat / 2 ^ 14 : Nat) : Int) ∧
      196608 * 2 ^ 14 - (p.toNat : Int) ≤ triangleShape p * 2 ^ 14 ∧
      (triangleShape p - 1) * 2 ^ 14 < 196608 * 2 ^ 14 - (p.toNat : Int)) ∧
    sawtoothShape p = ((p.toNat / 2 ^ 15 : Nat) : Int) - 65536 ∧
    sawtoothShape p * 2 ^ 15 ≤ p.toNat - 65536 * 2 ^ 15 ∧ (p.toNat : Int) - 65536 * 2 ^ 15 < (sawtoothShape p + 1) * 2 ^ 15

/-- 43_shapers.md R204: the noise shape is the top 17 bits of the LFSR read as a two's-complement number, and the phase
has no part in it. -/
def Obligations.NoiseShapeIsTheTopBits : Prop :=
  (∀ l : Word, noiseShape l = l.toInt / 2 ^ 15) ∧ ∀ (l p q : Word), shape .noise p l = shape .noise q l

/-- 43_shapers.md R201: one step of the LFSR, bit by bit: a shift right, and the feedback into bits 31, 21, 1 and 0. -/
def Obligations.LfsrStepBitByBit : Prop :=
  ∀ (l : Word) (k : Nat), k < 32 →
    (lfsrStep l).getLsbD k = (l.getLsbD (k + 1) ^^ (l.getLsbD 0 && (k == 31 || k == 21 || k == 1 || k == 0)))

/-- 43_shapers.md R203: the advance is the single step 32 times in a row, linear over XOR, a bijection, and fixes 0. -/
def Obligations.LfsrAdvanceIsLinearAndBijective : Prop :=
  (∀ l : Word, lfsrAdvance l = lfsrStep^[32] l) ∧
  (∀ x y : Word, lfsrAdvance (x ^^^ y) = lfsrAdvance x ^^^ lfsrAdvance y) ∧
  Function.Bijective lfsrAdvance ∧ lfsrAdvance 0 = 0

/-- 43_shapers.md R205: the generator never falls into 0, however often it advances. -/
def Obligations.LfsrNeverReachesZero : Prop :=
  ∀ (l : Word) (n : Nat), l ≠ 0 → lfsrAdvance^[n] l ≠ 0

/-! ## Laws over many commands -/

/-- 42_process.md R163, R164: after n PROCESS commands the phase has advanced n times modulo 2^32 whatever the type is, the
LFSR n times for Noise and not at all otherwise, and no other register has changed. -/
def Obligations.StateAfterManyProcessCommands : Prop :=
  ∀ (n : Nat) (s : State), s.constructed = true → s.wtype.toNat ≤ 4 →
    ∃ t, processTimes n s = .next t ∧
      t.phase.toNat = (s.phase.toNat + n * s.phaseInc.toNat) % 2 ^ 32 ∧
      t.lfsr = (if s.wtype = 4 then lfsrAdvance^[n] s.lfsr else s.lfsr) ∧
      t = { s with phase := t.phase, lfsr := t.lfsr, rsp := t.rsp }

/-- 42_process.md R168 (a): from a reset phase the n-th sample of a phase-driven type is
`DC + asr(Shape(n × PHASE_INC mod 2^32) × AMP, 16)`, a function of the call count alone. -/
def Obligations.PhaseDrivenSamplesAreAFunctionOfTheCount : Prop :=
  ∀ (n : Nat) (s : State) (w : WaveformType), s.constructed = true → s.phase = 0 → w ≠ .noise →
    WaveformType.ofBits s.wtype = some w →
    ∃ t d, processTimes (n + 1) s = .next t ∧ t.rsp = some ⟨.ok, d⟩ ∧
      ∀ l : Word, d.toInt =
        s.dc.toInt + shape w (BitVec.ofNat 32 (n * s.phaseInc.toNat)) l * s.amp.toInt / 65536

/-- 42_process.md R168 (b): SET_AMPLITUDE 0 followed by any number of PROCESS commands answers the offset every time, for
all five types. -/
def Obligations.ZeroAmplitudeAnswersTheOffset : Prop :=
  ∀ (n : Nat) (s : State), s.constructed = true → s.wtype.toNat ≤ 4 →
    ∃ t, execAll (.setAmplitude 0 :: List.replicate (n + 1) .process) s = .next t ∧
      t.rsp = some ⟨.ok, s.dc.signExtend 64⟩

/-- 42_process.md R168 (c): the sample is the sample of the same block with offset 0, plus the offset. -/
def Obligations.OffsetAddsExactly : Prop :=
  ∀ s : State, s.constructed = true → s.wtype.toNat ≤ 4 →
    ∃ t t0 d d0, exec .process s = .next t ∧ exec .process { s with dc := 0 } = .next t0 ∧
      t.rsp = some ⟨.ok, d⟩ ∧ t0.rsp = some ⟨.ok, d0⟩ ∧ d.toInt = d0.toInt + s.dc.toInt ∧
      t0 = { t with dc := 0, rsp := t0.rsp }

/-- 42_process.md R168 (f): for a phase-driven type, RESET after any number of PROCESS commands makes the next sample the
one the block answered at phase 0. -/
def Obligations.ResetRepeatsTheFirstSample : Prop :=
  ∀ (n : Nat) (s : State), s.constructed = true → s.wtype.toNat < 4 → s.phase = 0 →
    ∃ t u, exec .process s = .next t ∧
      execAll (List.replicate n .process ++ [.reset, .process]) s = .next u ∧ u.rsp = t.rsp ∧ u.phase = t.phase

/-- 42_process.md R168 (f), R204, 90_conflicts.md C8: for Noise the reset law fails: after one PROCESS and a RESET the next
sample is shaped from the advanced LFSR; with the fallback seed and amplitude 1 the two samples differ. -/
def Obligations.ResetDoesNotRewindTheNoise : Prop :=
  ∀ s : State, s.constructed = true → s.wtype = 4 →
    ∃ t u d e, exec .process s = .next t ∧ execAll [.process, .reset, .process] s = .next u ∧
      t.rsp = some ⟨.ok, d⟩ ∧ d.toInt = s.dc.toInt + noiseShape s.lfsr * s.amp.toInt / 65536 ∧
      u.rsp = some ⟨.ok, e⟩ ∧ e.toInt = s.dc.toInt + noiseShape (lfsrAdvance s.lfsr) * s.amp.toInt / 65536 ∧
      u.phase = s.phaseInc ∧ u.lfsr = lfsrAdvance (lfsrAdvance s.lfsr) ∧
      (s.lfsr = 0xFFFFFFFF → s.amp = 65536 → u.rsp ≠ t.rsp)

/-- 42_process.md R166: the phase offset is dead state: two blocks that differ only in PHOFF answer the same samples for
ever. -/
def Obligations.PhaseOffsetIsDeadState : Prop :=
  ∀ (n : Nat) (s t : State) (v : BitVec 26), processTimes n s = .next t →
    processTimes n { s with phoff := v } = .next { t with phoff := v }

/-- 42_process.md R169: the first sample after a constructor or RESET, by type. -/
def Obligations.FirstSampleByType : Prop :=
  ∀ s : State, s.constructed = true → s.phase = 0 →
    ∃ t d, exec .process { s with wtype := 0 } = .next t ∧ t.rsp = some ⟨.ok, d⟩ ∧ d.toInt = s.dc.toInt ∧
    ∃ t1 d1, exec .process { s with wtype := 1 } = .next t1 ∧ t1.rsp = some ⟨.ok, d1⟩ ∧ d1.toInt = s.dc.toInt + s.amp.toInt ∧
    ∃ t2 d2, exec .process { s with wtype := 2 } = .next t2 ∧ t2.rsp = some ⟨.ok, d2⟩ ∧ d2.toInt = s.dc.toInt - s.amp.toInt ∧
    ∃ t3 d3, exec .process { s with wtype := 3 } = .next t3 ∧ t3.rsp = some ⟨.ok, d3⟩ ∧ d3.toInt = s.dc.toInt - s.amp.toInt ∧
    ∃ t4 d4, exec .process { s with wtype := 4 } = .next t4 ∧ t4.rsp = some ⟨.ok, d4⟩ ∧
      d4.toInt = s.dc.toInt + noiseShape s.lfsr * s.amp.toInt / 65536 ∧ noiseShape 0xFFFFFFFF = -1

/-! ## Invariants and whole-machine rules -/

/-- 10_state.md R38: the invariant holds at the state after hardware reset. -/
def Obligations.ResetSatisfiesTheInvariant : Prop := State.reset.Inv

/-- 10_state.md R38: every step from a state with the invariant leads to a state with the invariant. -/
def Obligations.StepKeepsTheInvariant : Prop :=
  ∀ s t : State, s.Inv → step s = .next t → t.Inv

/-- 10_state.md R38: whatever the host does after hardware reset, whenever CONSTRUCTED = 1 between commands all of (a) to
(g) hold. What the host does is the event stream of notes/assumptions/3.md, later resets included (notes/assumptions/2.md). -/
def Obligations.ReachableConstructedStatesAreLegal : Prop :=
  ∀ (events : List HostEvent) (k : Nat) (t : State),
    Host.Core.run core k { State.reset with host := events } = .next t → t.constructed = true → t.Legal

/-- 30_encoding.md R79, 42_process.md R167: from a state with the invariant no sequence of host events ever stops the
machine. -/
def Obligations.LegalRunsNeverStop : Prop :=
  ∀ (s : State) (k : Nat), s.Inv → ∃ t, Host.Core.run core k s = .next t

/-- 10_state.md R36, 70_reset_and_hazards.md R261: no response ever depends on an unspecified register: from two
unconstructed blocks alike in all but the nine data registers, all runs stay indistinguishable to the host. -/
def Obligations.UnspecifiedRegistersAreNeverObserved : Prop :=
  ∀ (s s' : State) (k : Nat), s.SameToHost s' →
    outcomesSameToHost (Host.Core.run core k s) (Host.Core.run core k s')

/-- 10_state.md R23, 40_construction.md R108: nothing sets CONSTRUCTED back to 0 except hardware reset, and nothing but a
constructor command sets it. -/
def Obligations.OnlyHardwareResetUnconstructs : Prop :=
  ∀ s t : State, step s = .next t →
    (s.constructed = true → t.constructed = false → ∃ rest, s.host = .hardwareReset :: rest) ∧
    (s.constructed = false → t.constructed = true →
      ∃ w ok seed rest, s.host = .command w ok seed :: rest ∧ (decode w).isConstructor = true)

/-- 10_state.md R20, R21, R24 to R32, the column "written by": a register changes only at one of the commands listed for
it, and no command touches the seed port, the host's stream or the draw counter. -/
def Obligations.RegistersHaveOnlyTheirWriters : Prop :=
  ∀ (i : Instr) (s t : State), exec i s = .next t →
    (t.sampleRate ≠ s.sampleRate → i.isConstructor = true) ∧
    (t.freq ≠ s.freq → i.isConstructor = true ∨ ∃ a, i = .setFrequency a) ∧
    (t.phaseInc ≠ s.phaseInc → i.isConstructor = true ∨ ∃ a, i = .setFrequency a) ∧
    (t.amp ≠ s.amp → i.isConstructor = true ∨ ∃ a, i = .setAmplitude a) ∧
    (t.dc ≠ s.dc → i.isConstructor = true ∨ ∃ a, i = .setDcOffset a) ∧
    (t.phoff ≠ s.phoff → i.isConstructor = true ∨ ∃ a, i = .setPhaseOffset a) ∧
    (t.wtype ≠ s.wtype → i.isConstructor = true ∨ ∃ a, i = .setWaveformType a) ∧
    (t.phase ≠ s.phase → i.isConstructor = true ∨ i = .reset ∨ i = .process) ∧
    (t.lfsr ≠ s.lfsr → i.isConstructor = true ∨ (i = .process ∧ s.wtype = 4)) ∧
    (t.constructed ≠ s.constructed → i.isConstructor = true) ∧
    t.seedOk = s.seedOk ∧ t.seedIn = s.seedIn ∧ t.host = s.host ∧ t.draws = s.draws

/-- 30_encoding.md R78: the seed port is ignored by every command but the constructors, and `seed_in` by those too while
`seed_ok` is 0. -/
def Obligations.SeedPortIsReadByConstructorsAlone : Prop :=
  (∀ (i : Instr) (s t : State) (ok : Bool) (seed : Word), i.isConstructor = false → exec i s = .next t →
    exec i { s with seedOk := ok, seedIn := seed } = .next { t with seedOk := ok, seedIn := seed }) ∧
  (∀ (i : Instr) (s t : State) (seed : Word), s.seedOk = false → exec i s = .next t →
    exec i { s with seedIn := seed } = .next { t with seedIn := seed })

/-- The model's choice (notes/assumptions/6.md) on 42_process.md R162, "treat 5, 6, 7 as unreachable, not give them a
meaning": on a constructed block in such a state PROCESS and GET_WAVEFORM_NAME stop by name. -/
def Obligations.UnreachableWaveformTypeStops : Prop :=
  ∀ s : State, s.constructed = true → 4 < s.wtype.toNat →
    exec .process s = .fault .waveformTypeUnreachable ∧ exec .getWaveformName s = .fault .waveformTypeUnreachable

/-- The model's choice (notes/assumptions/7.md) on 10_state.md R24, "the division of rule R122 never divides by zero": on a
constructed block with sample rate 0 SET_FREQUENCY stops by name. -/
def Obligations.ZeroSampleRateStops : Prop :=
  ∀ (s : State) (a : Word), s.constructed = true → s.sampleRate = 0 →
    exec (.setFrequency a) s = .fault .sampleRateZero

/-! ## Text -/

/-- 30_encoding.md R81: a well-formed line assembles, to the word with its command's number and its operands' patterns, in the
order `a`, `b`, `c`, and 0 where none is written, which decodes to that command; each literal is the pattern of the value
written. The clause that an ill-formed line does not assemble is the model's choice where it goes beyond R81's words:
`CmdLine.wellFormed` follows the conventions of notes/assumptions/12.md (DESIGN CHOICE: a negative literal reaches down to
-2^31, a seed value carries no minus sign, an annotation on a command that is no constructor and a wrong number of operands
make the line ill-formed). -/
def Obligations.AssembledLineDecodesToItsCommand : Prop :=
  (∀ l : CmdLine, l.wellFormed = true →
    ∃ w, assemble l = some w ∧ fieldOp w = l.op.bits ∧
      fieldA w = operandWord l 0 ∧ fieldB w = operandWord l 1 ∧ fieldC w = operandWord l 2 ∧
      l.operands.length = l.op.readings.length ∧
      decode w = l.op.instr (operandWord l 2) (operandWord l 1) (operandWord l 0) ∧ (decode w).opcode = l.op) ∧
  (∀ (l : CmdLine) (k : Nat),
    (∀ v, l.operands[k]? = some v → operandWord l k = literalWord v) ∧ (l.operands.length ≤ k → operandWord l k = 0)) ∧
  (∀ l : CmdLine, l.wellFormed = false → assemble l = none) ∧
  (∀ n : Nat, n < 2 ^ 32 → (literalWord (.decimal n)).toNat = n ∧ (literalWord (.hexadecimal n)).toNat = n) ∧
  (∀ n : Nat, n ≤ 2 ^ 31 → (literalWord (.negative n)).toInt = -(n : Int))

/-- 30_encoding.md R81: `!seed=<value>` fixes `seed_ok = 1` and `seed_in`, `!noseed` fixes `seed_ok = 0`, and with no
annotation the seed inputs are the pins'. The last clause, that only a constructor carries an annotation, is the model's choice
(notes/assumptions/12.md, DESIGN CHOICE): R81 says that a constructor may be followed by one, and not what one on another
command means. That a seed value carries no minus sign, part of `CmdLine.wellFormed`, is a choice of the same entry. -/
def Obligations.SeedAnnotationFixesTheSeedPort : Prop :=
  ∀ (l : CmdLine) (pinOk : Bool) (pinIn : Word), l.wellFormed = true →
    ∃ w, assemble l = some w ∧
      (l.note = .absent → lineEvent l pinOk pinIn = some (.command w pinOk pinIn)) ∧
      (∀ v, l.note = .seed v → lineEvent l pinOk pinIn = some (.command w true (literalWord v))) ∧
      (l.note = .noseed → lineEvent l pinOk pinIn = some (.command w false pinIn)) ∧
      (l.note ≠ .absent → (decode w).isConstructor = true)

/-! ## What is not state -/

/-- 10_state.md R33, 00_scope.md R5, 60_exceptions.md R236: a command's effect and response depend on the ten registers and
the seed inputs sampled with it alone. The host's commands to come, the last response and the draw counter are none of its
inputs: with any others in their place it leaves the same registers and the same response, or stops for the same reason, and
it writes nothing beside the registers and the response. -/
def Obligations.CommandsDependOnTheBlockAndTheSeedInputsAlone : Prop :=
  ∀ (i : Instr) (s s' : State), s.toBlock = s'.toBlock → s.seedOk = s'.seedOk → s.seedIn = s'.seedIn →
    (∀ t, exec i s = .next t → ∃ r, t.rsp = some r ∧ t = { s with toBlock := t.toBlock, rsp := some r } ∧
      exec i s' = .next { s' with toBlock := t.toBlock, rsp := some r }) ∧
    (∀ r, exec i s = .fault r → exec i s' = .fault r) ∧
    (∀ r, exec i s ≠ .refused r)
end

