-- ==== Sys2Proof/Laws/Operands.lean ====
section
/-! SUPPORT. What each operand reading, check and normalisation can answer. -/

namespace Sys2Proof.Machine

/-! ## Integers and patterns -/

theorem slice_lt {n : Nat} (v : BitVec n) (hi lo : Nat) : slice v hi lo < 2 ^ (hi + 1 - lo) :=
  Nat.mod_lt _ (Nat.two_pow_pos _)

/-- `asr` is the floor: its value times the divisor lies at or below the operand, by less than the divisor. -/
theorem asr_spec (x : Int) (k : Nat) : asr x k * 2 ^ k ≤ x ∧ x < (asr x k + 1) * 2 ^ k := by
  have hpos : (0 : Int) < 2 ^ k := by positivity
  have hdiv := Int.mul_ediv_add_emod x (2 ^ k)
  have hlt := Int.emod_lt_of_pos x hpos
  have hnn := Int.emod_nonneg x hpos.ne'
  unfold asr
  constructor <;> nlinarith

theorem sext64_toInt {x : Int} (hlo : -2 ^ 63 ≤ x) (hhi : x < 2 ^ 63) : (sext64 x).toInt = x := by
  rw [sext64, BitVec.toInt_ofInt, Int.bmod_def]
  norm_num at *
  split <;> omega

/-- A register narrower than the response is sign-extended. -/
theorem sext64_register {n : Nat} (v : BitVec n) : sext64 v.toInt = v.signExtend 64 := by
  rw [sext64, BitVec.signExtend]

theorem zext64_register {n : Nat} (v : BitVec n) : zext64 v.toNat = v.setWidth 64 := by
  rw [zext64, BitVec.ofNat_toNat]

/-! ## The sample-rate operand -/

theorem sampleRateLegal_iff (a : Word) : sampleRateLegal a = true ↔ 1 ≤ a.toNat ∧ a.toNat < 2 ^ 24 := by
  unfold sampleRateLegal u32
  rw [decide_eq_true_iff]
  omega

/-- A sample-rate operand is refused, or is the rate. -/
theorem readSampleRate_spec (a : Word) :
    (readSampleRate a = none ∧ (a.toNat = 0 ∨ 2 ^ 24 ≤ a.toNat)) ∨
    (∃ r : BitVec 24, readSampleRate a = some r ∧ r.toNat = a.toNat ∧ 1 ≤ a.toNat ∧ a.toNat < 2 ^ 24) := by
  unfold readSampleRate
  split
  · rename_i h
    have := (sampleRateLegal_iff a).1 h
    refine .inr ⟨_, rfl, ?_, this⟩
    rw [BitVec.toNat_ofNat, u32]
    omega
  · rename_i h
    have := (sampleRateLegal_iff a).not.1 h
    exact .inl ⟨rfl, by omega⟩

/-! ## The waveform type -/

@[simp] theorem ofBits_code (w : WaveformType) : WaveformType.ofBits (WaveformType.code w) = some w := by
  cases w <;> rfl

/-- A `WTYPE` pattern names the variant whose discriminant it is, or none when it is 5, 6 or 7. -/
theorem ofBits_spec (v : BitVec 3) :
    (∃ w, WaveformType.ofBits v = some w ∧ v = WaveformType.code w ∧ v.toNat ≤ 4) ∨
    (WaveformType.ofBits v = none ∧ 4 < v.toNat) := by
  revert v
  decide +kernel

theorem ofBits_eq_some_iff (v : BitVec 3) (w : WaveformType) :
    WaveformType.ofBits v = some w ↔ v = WaveformType.code w := by
  revert v
  cases w <;> decide +kernel

/-- A discriminant operand is refused, or is the discriminant. -/
theorem readDiscriminant_spec (c : Word) :
    (readDiscriminant c = none ∧ 4 < c.toNat) ∨
    (∃ t : BitVec 3, readDiscriminant c = some t ∧ t.toNat = c.toNat ∧ c.toNat ≤ 4) := by
  unfold readDiscriminant discriminantLegal u32
  split
  · rename_i h
    have hc : c.toNat ≤ 4 := by simpa using h
    refine .inr ⟨_, rfl, ?_, hc⟩
    rw [BitVec.toNat_ofNat, slice]
    omega
  · rename_i h
    exact .inl ⟨rfl, by simpa using h⟩

/-! ## The frequency operand -/

/-- The clamp in one formula. -/
theorem clampFrequency_eq (f : Int) (r : Nat) : (clampFrequency f r : Int) = max 0 (min f (128 * r)) := by
  unfold clampFrequency nyquist
  split
  · omega
  · split
    · push_cast; omega
    · omega

theorem clampFrequency_le (f : Int) (r : Nat) : clampFrequency f r ≤ 128 * r := by
  have := clampFrequency_eq f r
  omega

/-- The tuning word is at most half a turn below the Nyquist limit. -/
theorem tuningWord_le {f r : Nat} (h : f ≤ 128 * r) : tuningWord f r ≤ 2 ^ 31 := by
  unfold tuningWord
  apply Nat.div_le_of_le_mul
  omega

/-! ## The phase-offset operand -/

/-- The three branches in one formula: unchanged inside a turn, the truncated remainder outside. -/
theorem normalisePhaseOffset_eq (p : Int) :
    normalisePhaseOffset p = if -2 ^ 24 ≤ p ∧ p ≤ 2 ^ 24 then p else p.tmod (2 ^ 24) := by
  unfold normalisePhaseOffset phaseOffsetTurn
  norm_num
  split_ifs with h1 h2 h3 h4 h5
  · omega
  · rw [Int.tmod_eq_emod_of_nonneg (by omega)]
  · omega
  · rw [← Int.tmod_eq_emod_of_nonneg (by omega), Int.neg_tmod, neg_neg]
  · rfl
  · omega

theorem normalisePhaseOffset_range (p : Int) :
    -2 ^ 24 ≤ normalisePhaseOffset p ∧ normalisePhaseOffset p ≤ 2 ^ 24 := by
  unfold normalisePhaseOffset phaseOffsetTurn
  split_ifs <;> omega

/-! ## The seed -/

/-- The seed rule in one formula. -/
theorem seedValue_eq (ok : Bool) (seed : Word) :
    seedValue ok seed = if ok = true ∧ seed ≠ 0 then seed else 0xFFFFFFFF#32 := by
  unfold seedValue Config.lfsrFallback
  cases ok <;> by_cases h : seed = 0#32 <;> simp [h]

theorem seedValue_ne_zero (ok : Bool) (seed : Word) : seedValue ok seed ≠ 0 := by
  rw [seedValue_eq]
  split
  · rename_i h
    exact h.2
  · decide

end Sys2Proof.Machine
end

