-- ==== Sys2Proof/Laws/State.lean ====
section
/-! SUPPORT. One lemma per field per update, so that no later proof unfolds an update: first the operations on the block's
registers, then those on the whole system, whose registers are moved as one (`toBlock`). -/

namespace Sys2Proof.Machine

/-! ### tune -/

@[simp] theorem Block.tune_sampleRate (b : Block) (f : Int) :
    (b.tune f).sampleRate = b.sampleRate := rfl
@[simp] theorem Block.tune_freq (b : Block) (f : Int) :
    (b.tune f).freq = BitVec.ofNat 32 (clampFrequency f b.sampleRate.toNat) := rfl
@[simp] theorem Block.tune_phaseInc (b : Block) (f : Int) :
    (b.tune f).phaseInc =
      BitVec.ofNat 32 (tuningWord (clampFrequency f b.sampleRate.toNat) b.sampleRate.toNat) := rfl
@[simp] theorem Block.tune_amp (b : Block) (f : Int) :
    (b.tune f).amp = b.amp := rfl
@[simp] theorem Block.tune_dc (b : Block) (f : Int) :
    (b.tune f).dc = b.dc := rfl
@[simp] theorem Block.tune_phoff (b : Block) (f : Int) :
    (b.tune f).phoff = b.phoff := rfl
@[simp] theorem Block.tune_wtype (b : Block) (f : Int) :
    (b.tune f).wtype = b.wtype := rfl
@[simp] theorem Block.tune_phase (b : Block) (f : Int) :
    (b.tune f).phase = b.phase := rfl
@[simp] theorem Block.tune_lfsr (b : Block) (f : Int) :
    (b.tune f).lfsr = b.lfsr := rfl
@[simp] theorem Block.tune_constructed (b : Block) (f : Int) :
    (b.tune f).constructed = b.constructed := rfl

/-! ### construct -/

@[simp] theorem Block.construct_sampleRate (b : Block) (r : BitVec 24) (f : Int) (seed : Word) :
    (b.construct r f seed).sampleRate = r := rfl
@[simp] theorem Block.construct_freq (b : Block) (r : BitVec 24) (f : Int) (seed : Word) :
    (b.construct r f seed).freq = BitVec.ofNat 32 (clampFrequency f r.toNat) := rfl
@[simp] theorem Block.construct_phaseInc (b : Block) (r : BitVec 24) (f : Int) (seed : Word) :
    (b.construct r f seed).phaseInc =
      BitVec.ofNat 32 (tuningWord (clampFrequency f r.toNat) r.toNat) := rfl
@[simp] theorem Block.construct_amp (b : Block) (r : BitVec 24) (f : Int) (seed : Word) :
    (b.construct r f seed).amp = 65536#32 := rfl
@[simp] theorem Block.construct_dc (b : Block) (r : BitVec 24) (f : Int) (seed : Word) :
    (b.construct r f seed).dc = 0#32 := rfl
@[simp] theorem Block.construct_phoff (b : Block) (r : BitVec 24) (f : Int) (seed : Word) :
    (b.construct r f seed).phoff = 0#26 := rfl
@[simp] theorem Block.construct_wtype (b : Block) (r : BitVec 24) (f : Int) (seed : Word) :
    (b.construct r f seed).wtype = 0#3 := rfl
@[simp] theorem Block.construct_phase (b : Block) (r : BitVec 24) (f : Int) (seed : Word) :
    (b.construct r f seed).phase = 0#32 := rfl
@[simp] theorem Block.construct_lfsr (b : Block) (r : BitVec 24) (f : Int) (seed : Word) :
    (b.construct r f seed).lfsr = seed := rfl
@[simp] theorem Block.construct_constructed (b : Block) (r : BitVec 24) (f : Int) (seed : Word) :
    (b.construct r f seed).constructed = true := rfl

/-! ### advance -/

@[simp] theorem Block.advance_sampleRate (b : Block) (w : WaveformType) :
    (b.advance w).sampleRate = b.sampleRate := rfl
@[simp] theorem Block.advance_freq (b : Block) (w : WaveformType) :
    (b.advance w).freq = b.freq := rfl
@[simp] theorem Block.advance_phaseInc (b : Block) (w : WaveformType) :
    (b.advance w).phaseInc = b.phaseInc := rfl
@[simp] theorem Block.advance_amp (b : Block) (w : WaveformType) :
    (b.advance w).amp = b.amp := rfl
@[simp] theorem Block.advance_dc (b : Block) (w : WaveformType) :
    (b.advance w).dc = b.dc := rfl
@[simp] theorem Block.advance_phoff (b : Block) (w : WaveformType) :
    (b.advance w).phoff = b.phoff := rfl
@[simp] theorem Block.advance_wtype (b : Block) (w : WaveformType) :
    (b.advance w).wtype = b.wtype := rfl
@[simp] theorem Block.advance_phase (b : Block) (w : WaveformType) :
    (b.advance w).phase = b.phase + b.phaseInc := rfl
@[simp] theorem Block.advance_lfsr (b : Block) (w : WaveformType) :
    (b.advance w).lfsr = if w = .noise then lfsrAdvance b.lfsr else b.lfsr := rfl
@[simp] theorem Block.advance_constructed (b : Block) (w : WaveformType) :
    (b.advance w).constructed = b.constructed := rfl

/-! ### afterHardwareReset -/

@[simp] theorem Block.afterHardwareReset_sampleRate (n : Nat) :
    (Block.afterHardwareReset n).sampleRate = Config.unspecified 24 .sampleRate n := rfl
@[simp] theorem Block.afterHardwareReset_freq (n : Nat) :
    (Block.afterHardwareReset n).freq = Config.unspecified 32 .freq n := rfl
@[simp] theorem Block.afterHardwareReset_phaseInc (n : Nat) :
    (Block.afterHardwareReset n).phaseInc = Config.unspecified 32 .phaseInc n := rfl
@[simp] theorem Block.afterHardwareReset_amp (n : Nat) :
    (Block.afterHardwareReset n).amp = Config.unspecified 32 .amp n := rfl
@[simp] theorem Block.afterHardwareReset_dc (n : Nat) :
    (Block.afterHardwareReset n).dc = Config.unspecified 32 .dc n := rfl
@[simp] theorem Block.afterHardwareReset_phoff (n : Nat) :
    (Block.afterHardwareReset n).phoff = Config.unspecified 26 .phoff n := rfl
@[simp] theorem Block.afterHardwareReset_wtype (n : Nat) :
    (Block.afterHardwareReset n).wtype = Config.unspecified 3 .wtype n := rfl
@[simp] theorem Block.afterHardwareReset_phase (n : Nat) :
    (Block.afterHardwareReset n).phase = Config.unspecified 32 .phase n := rfl
@[simp] theorem Block.afterHardwareReset_lfsr (n : Nat) :
    (Block.afterHardwareReset n).lfsr = Config.unspecified 32 .lfsr n := rfl
@[simp] theorem Block.afterHardwareReset_constructed (n : Nat) :
    (Block.afterHardwareReset n).constructed = false := rfl

/-! ### complete -/

@[simp] theorem State.complete_toBlock (s : State) (b : Block) (r : Response) :
    (s.complete b r).toBlock = b := rfl
@[simp] theorem State.complete_seedOk (s : State) (b : Block) (r : Response) :
    (s.complete b r).seedOk = s.seedOk := rfl
@[simp] theorem State.complete_seedIn (s : State) (b : Block) (r : Response) :
    (s.complete b r).seedIn = s.seedIn := rfl
@[simp] theorem State.complete_rsp (s : State) (b : Block) (r : Response) :
    (s.complete b r).rsp = some r := rfl
@[simp] theorem State.complete_host (s : State) (b : Block) (r : Response) :
    (s.complete b r).host = s.host := rfl
@[simp] theorem State.complete_draws (s : State) (b : Block) (r : Response) :
    (s.complete b r).draws = s.draws := rfl

/-! ### hardwareReset -/

@[simp] theorem State.hardwareReset_toBlock (s : State) :
    (s.hardwareReset).toBlock = Block.afterHardwareReset s.draws := rfl
@[simp] theorem State.hardwareReset_seedOk (s : State) :
    (s.hardwareReset).seedOk = s.seedOk := rfl
@[simp] theorem State.hardwareReset_seedIn (s : State) :
    (s.hardwareReset).seedIn = s.seedIn := rfl
@[simp] theorem State.hardwareReset_rsp (s : State) :
    (s.hardwareReset).rsp = none := rfl
@[simp] theorem State.hardwareReset_host (s : State) :
    (s.hardwareReset).host = s.host := rfl
@[simp] theorem State.hardwareReset_draws (s : State) :
    (s.hardwareReset).draws = s.draws + 1 := rfl

/-! ### idle -/

@[simp] theorem State.idle_toBlock (s : State) :
    (s.idle).toBlock = s.toBlock := rfl
@[simp] theorem State.idle_seedOk (s : State) :
    (s.idle).seedOk = s.seedOk := rfl
@[simp] theorem State.idle_seedIn (s : State) :
    (s.idle).seedIn = s.seedIn := rfl
@[simp] theorem State.idle_rsp (s : State) :
    (s.idle).rsp = none := rfl
@[simp] theorem State.idle_host (s : State) :
    (s.idle).host = s.host := rfl
@[simp] theorem State.idle_draws (s : State) :
    (s.idle).draws = s.draws := rfl

/-! ### accept -/

@[simp] theorem State.accept_toBlock (s : State) (ok : Bool) (seed : Word) (rest : List HostEvent) :
    (s.accept ok seed rest).toBlock = s.toBlock := rfl
@[simp] theorem State.accept_seedOk (s : State) (ok : Bool) (seed : Word) (rest : List HostEvent) :
    (s.accept ok seed rest).seedOk = ok := rfl
@[simp] theorem State.accept_seedIn (s : State) (ok : Bool) (seed : Word) (rest : List HostEvent) :
    (s.accept ok seed rest).seedIn = seed := rfl
@[simp] theorem State.accept_rsp (s : State) (ok : Bool) (seed : Word) (rest : List HostEvent) :
    (s.accept ok seed rest).rsp = s.rsp := rfl
@[simp] theorem State.accept_host (s : State) (ok : Bool) (seed : Word) (rest : List HostEvent) :
    (s.accept ok seed rest).host = rest := rfl
@[simp] theorem State.accept_draws (s : State) (ok : Bool) (seed : Word) (rest : List HostEvent) :
    (s.accept ok seed rest).draws = s.draws := rfl

/-! ### withFetchWord -/

@[simp] theorem State.withFetchWord_toBlock (s : State) (nbits w : Nat) :
    (s.withFetchWord nbits w).toBlock = s.toBlock := rfl
@[simp] theorem State.withFetchWord_seedOk (s : State) (nbits w : Nat) :
    (s.withFetchWord nbits w).seedOk = s.seedOk := rfl
@[simp] theorem State.withFetchWord_seedIn (s : State) (nbits w : Nat) :
    (s.withFetchWord nbits w).seedIn = s.seedIn := rfl
@[simp] theorem State.withFetchWord_rsp (s : State) (nbits w : Nat) :
    (s.withFetchWord nbits w).rsp = s.rsp := rfl
@[simp] theorem State.withFetchWord_host (s : State) (nbits w : Nat) :
    (s.withFetchWord nbits w).host =
      .command (BitVec.ofNat 100 (w % 2 ^ nbits)) s.seedOk s.seedIn :: s.host := rfl
@[simp] theorem State.withFetchWord_draws (s : State) (nbits w : Nat) :
    (s.withFetchWord nbits w).draws = s.draws := rfl

end Sys2Proof.Machine
end

