-- ==== Sys2Proof/Laws/Ops.lean ====
section
/-! SUPPORT. What the guard of a command, a command in the system, each command and a step can answer: said once, to be
cited instead of unfolded. -/

namespace Sys2Proof.Machine

/-! ## The guard, the rejection, the response -/

theorem whenConstructed_of_true {b : Block} (h : b.constructed = true) (body : CommandOutcome) :
    whenConstructed b body = body := by
  simp [whenConstructed, h]

theorem whenConstructed_of_false {b : Block} (h : b.constructed = false) (body : CommandOutcome) :
    whenConstructed b body = rejectWith .errNotConstructed b := by
  simp [whenConstructed, h]

/-- A guarded command is rejected with code 1 or is its body at a constructed block. -/
theorem whenConstructed_cases (b : Block) (body : CommandOutcome) :
    (b.constructed = false ∧ whenConstructed b body = rejectWith .errNotConstructed b) ∨
    (b.constructed = true ∧ whenConstructed b body = body) := by
  cases h : b.constructed
  · exact .inl ⟨rfl, whenConstructed_of_false h body⟩
  · exact .inr ⟨rfl, whenConstructed_of_true h body⟩

@[simp] theorem rejectWith_next {c : Status} {b : Block} {e : Completion} :
    rejectWith c b = .next e ↔ ⟨b, ⟨c, 0⟩⟩ = e := by
  simp [rejectWith]

@[simp] theorem answer_next {b : Block} {d : Data} {e : Completion} : answer b d = .next e ↔ ⟨b, ⟨.ok, d⟩⟩ = e := by
  simp [answer]

/-! ## A command in the system -/

/-- All that a command can do to the system: its registers and its response, or its stop. -/
theorem State.perform_next {s t : State} {command : Block → CommandOutcome} :
    s.perform command = .next t ↔ ∃ c, command s.toBlock = .next c ∧ t = s.complete c.block c.response := by
  unfold State.perform
  cases command s.toBlock <;> simp [eq_comm]

theorem State.perform_of_next {s : State} {command : Block → CommandOutcome} {b : Block} {r : Response}
    (h : command s.toBlock = .next ⟨b, r⟩) : s.perform command = .next (s.complete b r) := by
  simp [State.perform, h]

theorem State.perform_of_fault {s : State} {command : Block → CommandOutcome} {r : Fault}
    (h : command s.toBlock = .fault r) : s.perform command = .fault r := by
  simp [State.perform, h]

theorem State.perform_reject (s : State) (c : Status) :
    s.perform (rejectWith c) = .next (s.complete s.toBlock ⟨c, 0⟩) := rfl

/-- A command reads the registers alone: systems with one block complete alike. -/
theorem State.perform_congr {s s' : State} (h : s.toBlock = s'.toBlock) (command : Block → CommandOutcome) {t : State}
    (ht : s.perform command = .next t) : ∃ t', s'.perform command = .next t' ∧ t'.toBlock = t.toBlock ∧ t'.rsp = t.rsp := by
  obtain ⟨c, hc, rfl⟩ := State.perform_next.1 ht
  exact ⟨_, State.perform_of_next (h ▸ hc), rfl, rfl⟩

/-- A guarded command that answers a next state is rejected with code 1, or its body completes. -/
theorem perform_whenConstructed_next {s t : State} {body : Block → CommandOutcome}
    (h : s.perform (fun b => whenConstructed b (body b)) = .next t) :
    (s.constructed = false ∧ t = s.complete s.toBlock ⟨.errNotConstructed, 0⟩) ∨
    (s.constructed = true ∧ ∃ c, body s.toBlock = .next c ∧ t = s.complete c.block c.response) := by
  obtain ⟨c, hc, ht⟩ := State.perform_next.1 h
  rcases whenConstructed_cases s.toBlock (body s.toBlock) with ⟨hs, he⟩ | ⟨hs, he⟩ <;> rw [he] at hc
  · exact .inl ⟨hs, by rw [ht, ← rejectWith_next.1 hc]⟩
  · exact .inr ⟨hs, c, hc, ht⟩

/-- The same where the body is a plain answer. -/
theorem perform_answer_next {s t : State} {g : Block → Block} {d : Block → Data}
    (h : s.perform (fun b => whenConstructed b (answer (g b) (d b))) = .next t) :
    (s.constructed = false ∧ t = s.complete s.toBlock ⟨.errNotConstructed, 0⟩) ∨
    (s.constructed = true ∧ t = s.complete (g s.toBlock) ⟨.ok, d s.toBlock⟩) := by
  rcases perform_whenConstructed_next h with h | ⟨hs, c, hc, ht⟩
  · exact .inl h
  · exact .inr ⟨hs, by rw [ht, ← answer_next.1 hc]⟩

/-- A guarded command at a block that is not constructed. -/
theorem perform_of_unconstructed {s : State} (h : s.constructed = false) (body : Block → CommandOutcome) :
    s.perform (fun b => whenConstructed b (body b)) = .next (s.complete s.toBlock ⟨.errNotConstructed, 0⟩) :=
  State.perform_of_next (whenConstructed_of_false h _)

/-- A guarded command with a plain answer, at a constructed block. -/
theorem perform_of_constructed {s : State} (h : s.constructed = true) (g : Block → Block) (d : Block → Data) :
    s.perform (fun b => whenConstructed b (answer (g b) (d b))) =
      .next (s.complete (g s.toBlock) ⟨.ok, d s.toBlock⟩) :=
  State.perform_of_next (whenConstructed_of_true h _)

/-! ## The commands: if one answers a next state, then one of these cases holds -/

theorem execProcess_next {s t : State} (h : execProcess s = .next t) :
    (s.constructed = false ∧ t = s.complete s.toBlock ⟨.errNotConstructed, 0⟩) ∨
    (s.constructed = true ∧ ∃ w, WaveformType.ofBits s.wtype = some w ∧
      t = s.complete (s.advance w) ⟨.ok, sext64 (s.sample w)⟩) := by
  refine (perform_whenConstructed_next h).imp_right fun ⟨hs, c, hc, ht⟩ => ⟨hs, ?_⟩
  cases hw : WaveformType.ofBits s.wtype with
  | none => rw [hw] at hc; cases hc
  | some w => rw [hw] at hc; exact ⟨w, rfl, by rw [ht, ← answer_next.1 hc]⟩

theorem execNew_next {a b : Word} {s t : State} (h : execNew a b s = .next t) :
    ((a.toNat = 0 ∨ 2 ^ 24 ≤ a.toNat) ∧ t = s.complete s.toBlock ⟨.errSampleRate, 0⟩) ∨
    (∃ r : BitVec 24, r.toNat = a.toNat ∧ 1 ≤ a.toNat ∧ a.toNat < 2 ^ 24 ∧
      t = s.complete (s.construct r (s32 b) (seedValue s.seedOk s.seedIn)) ⟨.ok, 0⟩) := by
  obtain ⟨c, hc, ht⟩ := State.perform_next.1 h
  rcases readSampleRate_spec a with ⟨hr, ha⟩ | ⟨r, hr, hn, h1, h2⟩ <;> simp only [hr] at hc
  · exact .inl ⟨ha, by rw [ht, ← rejectWith_next.1 hc]⟩
  · exact .inr ⟨r, hn, h1, h2, by rw [ht, ← answer_next.1 hc]⟩

theorem execNewWithType_next {a b c : Word} {s t : State} (h : execNewWithType a b c s = .next t) :
    (4 < c.toNat ∧ t = s.complete s.toBlock ⟨.errWaveformType, 0⟩) ∨
    (c.toNat ≤ 4 ∧ (a.toNat = 0 ∨ 2 ^ 24 ≤ a.toNat) ∧ t = s.complete s.toBlock ⟨.errSampleRate, 0⟩) ∨
    (∃ (r : BitVec 24) (w : BitVec 3), w.toNat = c.toNat ∧ c.toNat ≤ 4 ∧ r.toNat = a.toNat ∧ 1 ≤ a.toNat ∧
      a.toNat < 2 ^ 24 ∧
      t = s.complete { s.construct r (s32 b) (seedValue s.seedOk s.seedIn) with wtype := w } ⟨.ok, 0⟩) := by
  obtain ⟨e, he, ht⟩ := State.perform_next.1 h
  rcases readDiscriminant_spec c with ⟨hd, hc⟩ | ⟨w, hd, hw, hc⟩ <;> simp only [hd] at he
  · exact .inl ⟨hc, by rw [ht, ← rejectWith_next.1 he]⟩
  · rcases readSampleRate_spec a with ⟨hr, ha⟩ | ⟨r, hr, hn, h1, h2⟩ <;> simp only [hr] at he
    · exact .inr (.inl ⟨hc, ha, by rw [ht, ← rejectWith_next.1 he]⟩)
    · exact .inr (.inr ⟨r, w, hw, hc, hn, h1, h2, by rw [ht, ← answer_next.1 he]⟩)

theorem execDefault_next {s t : State} (h : execDefault s = .next t) :
    t = s.complete (s.construct Config.defaultSampleRate Config.defaultFrequency (seedValue s.seedOk s.seedIn))
      ⟨.ok, 0⟩ := by
  obtain ⟨c, hc, ht⟩ := State.perform_next.1 h
  rw [ht, ← answer_next.1 hc]

theorem execSetFrequency_next {a : Word} {s t : State} (h : execSetFrequency a s = .next t) :
    (s.constructed = false ∧ t = s.complete s.toBlock ⟨.errNotConstructed, 0⟩) ∨
    (s.constructed = true ∧ s.sampleRate ≠ 0 ∧ t = s.complete (s.tune (s32 a)) ⟨.ok, 0⟩) := by
  refine (perform_whenConstructed_next h).imp_right fun ⟨hs, c, hc, ht⟩ => ⟨hs, ?_⟩
  by_cases hz : s.sampleRate = 0
  · rw [if_pos hz] at hc; cases hc
  · rw [if_neg hz] at hc; exact ⟨hz, by rw [ht, ← answer_next.1 hc]⟩

theorem execSetWaveformType_next {a : Word} {s t : State} (h : execSetWaveformType a s = .next t) :
    (s.constructed = false ∧ t = s.complete s.toBlock ⟨.errNotConstructed, 0⟩) ∨
    (s.constructed = true ∧ 4 < a.toNat ∧ t = s.complete s.toBlock ⟨.errWaveformType, 0⟩) ∨
    (s.constructed = true ∧ ∃ w : BitVec 3, w.toNat = a.toNat ∧ a.toNat ≤ 4 ∧
      t = s.complete { s.toBlock with wtype := w } ⟨.ok, 0⟩) := by
  rcases perform_whenConstructed_next h with h | ⟨hs, c, hc, ht⟩
  · exact .inl h
  · rcases readDiscriminant_spec a with ⟨hd, ha⟩ | ⟨w, hd, hw, ha⟩ <;> simp only [hd] at hc
    · exact .inr (.inl ⟨hs, ha, by rw [ht, ← rejectWith_next.1 hc]⟩)
    · exact .inr (.inr ⟨hs, w, hw, ha, by rw [ht, ← answer_next.1 hc]⟩)

theorem execGetWaveformName_next {s t : State} (h : execGetWaveformName s = .next t) :
    (s.constructed = false ∧ t = s.complete s.toBlock ⟨.errNotConstructed, 0⟩) ∨
    (s.constructed = true ∧ ∃ w, WaveformType.ofBits s.wtype = some w ∧
      t = s.complete s.toBlock ⟨.ok, packName (nameBytes w)⟩) := by
  refine (perform_whenConstructed_next h).imp_right fun ⟨hs, c, hc, ht⟩ => ⟨hs, ?_⟩
  cases hw : WaveformType.ofBits s.wtype with
  | none => rw [hw] at hc; cases hc
  | some w => rw [hw] at hc; exact ⟨w, rfl, by rw [ht, ← answer_next.1 hc]⟩

theorem execSetAmplitude_next {a : Word} {s t : State} (h : execSetAmplitude a s = .next t) :
    (s.constructed = false ∧ t = s.complete s.toBlock ⟨.errNotConstructed, 0⟩) ∨
    (s.constructed = true ∧
      t = s.complete { s.toBlock with amp := a } ⟨.ok, 0⟩) :=
  perform_answer_next (g := fun b => { b with amp := a })
    (d := fun _ => 0) h

theorem execSetDcOffset_next {a : Word} {s t : State} (h : execSetDcOffset a s = .next t) :
    (s.constructed = false ∧ t = s.complete s.toBlock ⟨.errNotConstructed, 0⟩) ∨
    (s.constructed = true ∧
      t = s.complete { s.toBlock with dc := a } ⟨.ok, 0⟩) :=
  perform_answer_next (g := fun b => { b with dc := a })
    (d := fun _ => 0) h

theorem execSetPhaseOffset_next {a : Word} {s t : State} (h : execSetPhaseOffset a s = .next t) :
    (s.constructed = false ∧ t = s.complete s.toBlock ⟨.errNotConstructed, 0⟩) ∨
    (s.constructed = true ∧
      t = s.complete { s.toBlock with phoff := BitVec.ofInt 26 (normalisePhaseOffset (s32 a)) } ⟨.ok, 0⟩) :=
  perform_answer_next (g := fun b => { b with phoff := BitVec.ofInt 26 (normalisePhaseOffset (s32 a)) })
    (d := fun _ => 0) h

theorem execReset_next {s t : State} (h : execReset s = .next t) :
    (s.constructed = false ∧ t = s.complete s.toBlock ⟨.errNotConstructed, 0⟩) ∨
    (s.constructed = true ∧
      t = s.complete { s.toBlock with phase := 0 } ⟨.ok, 0⟩) :=
  perform_answer_next (g := fun b => { b with phase := 0 })
    (d := fun _ => 0) h

theorem execGetFrequency_next {s t : State} (h : execGetFrequency s = .next t) :
    (s.constructed = false ∧ t = s.complete s.toBlock ⟨.errNotConstructed, 0⟩) ∨
    (s.constructed = true ∧
      t = s.complete s.toBlock ⟨.ok, zext64 s.freq.toNat⟩) :=
  perform_answer_next (g := fun b => b)
    (d := fun b => zext64 b.freq.toNat) h

theorem execGetAmplitude_next {s t : State} (h : execGetAmplitude s = .next t) :
    (s.constructed = false ∧ t = s.complete s.toBlock ⟨.errNotConstructed, 0⟩) ∨
    (s.constructed = true ∧
      t = s.complete s.toBlock ⟨.ok, sext64 s.amp.toInt⟩) :=
  perform_answer_next (g := fun b => b)
    (d := fun b => sext64 b.amp.toInt) h

theorem execGetDcOffset_next {s t : State} (h : execGetDcOffset s = .next t) :
    (s.constructed = false ∧ t = s.complete s.toBlock ⟨.errNotConstructed, 0⟩) ∨
    (s.constructed = true ∧
      t = s.complete s.toBlock ⟨.ok, sext64 s.dc.toInt⟩) :=
  perform_answer_next (g := fun b => b)
    (d := fun b => sext64 b.dc.toInt) h

theorem execGetPhaseOffset_next {s t : State} (h : execGetPhaseOffset s = .next t) :
    (s.constructed = false ∧ t = s.complete s.toBlock ⟨.errNotConstructed, 0⟩) ∨
    (s.constructed = true ∧
      t = s.complete s.toBlock ⟨.ok, sext64 s.phoff.toInt⟩) :=
  perform_answer_next (g := fun b => b)
    (d := fun b => sext64 b.phoff.toInt) h

theorem execGetWaveformType_next {s t : State} (h : execGetWaveformType s = .next t) :
    (s.constructed = false ∧ t = s.complete s.toBlock ⟨.errNotConstructed, 0⟩) ∨
    (s.constructed = true ∧
      t = s.complete s.toBlock ⟨.ok, zext64 s.wtype.toNat⟩) :=
  perform_answer_next (g := fun b => b)
    (d := fun b => zext64 b.wtype.toNat) h

/-- Every command runs on the block's registers, and beside them reads the effective seed alone; a command that is no
constructor does not read that either. -/
theorem exec_eq_perform (i : Instr) :
    ∃ command : Word → Block → CommandOutcome,
      (∀ s, exec i s = s.perform (command (seedValue s.seedOk s.seedIn))) ∧
      (i.isConstructor = false → ∀ x y, command x = command y) := by
  have plain : ∀ j : Instr, (∃ f : Block → CommandOutcome, ∀ s, exec j s = s.perform f) →
      ∃ command : Word → Block → CommandOutcome,
        (∀ s, exec j s = s.perform (command (seedValue s.seedOk s.seedIn))) ∧
        (j.isConstructor = false → ∀ x y, command x = command y) :=
    fun _ ⟨f, hf⟩ => ⟨fun _ => f, hf, fun _ _ _ => rfl⟩
  cases i
  case new a b =>
    exact ⟨fun seed block =>
      match readSampleRate a with
      | none => rejectWith .errSampleRate block
      | some rate => answer (block.construct rate (s32 b) seed) 0, fun _ => rfl, fun h => by cases h⟩
  case newWithType a b c =>
    exact ⟨fun seed block =>
      match readDiscriminant c with
      | none => rejectWith .errWaveformType block
      | some t =>
        match readSampleRate a with
        | none => rejectWith .errSampleRate block
        | some rate => answer { block.construct rate (s32 b) seed with wtype := t } 0, fun _ => rfl, fun h => by cases h⟩
  case default =>
    exact ⟨fun seed block => answer (block.construct Config.defaultSampleRate Config.defaultFrequency seed) 0,
      fun _ => rfl, fun h => by cases h⟩
  all_goals
    refine plain _ ?_
    simp only [exec, execProcess, execReset, execSetFrequency, execSetAmplitude, execSetDcOffset, execSetPhaseOffset,
      execSetWaveformType, execGetFrequency, execGetAmplitude, execGetDcOffset, execGetPhaseOffset, execGetWaveformType,
      execGetWaveformName]
    exact ⟨_, fun _ => rfl⟩

/-! ## The step -/

/-- What a step can do: idle, a hardware reset, or one decoded command. -/
theorem step_next {s t : State} (h : step s = .next t) :
    (s.host = [] ∧ t = s.idle) ∨
    (∃ rest, s.host = .hardwareReset :: rest ∧ t = { s with host := rest }.hardwareReset) ∨
    (∃ w ok seed rest, s.host = .command w ok seed :: rest ∧ exec (decode w) (s.accept ok seed rest) = .next t) := by
  unfold step fetch at h
  split at h <;> rename_i hf <;> split at hf <;> rename_i hh <;> cases hf
  · exact .inl ⟨hh, by cases h; rfl⟩
  · exact .inr (.inl ⟨_, hh, by cases h; rfl⟩)
  · exact .inr (.inr ⟨_, _, _, _, hh, h⟩)

theorem step_of_command {s : State} {w : CmdWord} {ok : Bool} {seed : Word} {rest : List HostEvent}
    (h : s.host = .command w ok seed :: rest) : step s = exec (decode w) (s.accept ok seed rest) := by
  simp only [step, fetch, h]

theorem step_of_hardwareReset {s : State} {rest : List HostEvent} (h : s.host = .hardwareReset :: rest) :
    step s = .next { s with host := rest }.hardwareReset := by
  simp only [step, fetch, h]

theorem step_of_nothing {s : State} (h : s.host = []) : step s = .next s.idle := by
  simp only [step, fetch, h]

/-! ## Runs of the host's machine, one step at a time -/

theorem run_of_next (M : Host.Core) {k : Nat} {s t : M.State} (h : M.step s = .next t) : M.run (k + 1) s = M.run k t := by
  simp [Host.Core.run, h]

theorem run_of_fault (M : Host.Core) {k : Nat} {s : M.State} {r : M.Fault} (h : M.step s = .fault r) :
    M.run (k + 1) s = .fault r := by
  simp [Host.Core.run, h]

theorem run_of_refused (M : Host.Core) {k : Nat} {s : M.State} {r : M.Refusal} (h : M.step s = .refused r) :
    M.run (k + 1) s = .refused r := by
  simp [Host.Core.run, h]

theorem core_run_zero (s : State) : Host.Core.run core 0 s = .next s := rfl

theorem core_run_of_next {k : Nat} {s t : State} (h : step s = .next t) :
    Host.Core.run core (k + 1) s = Host.Core.run core k t := run_of_next core h

theorem core_run_of_fault {k : Nat} {s : State} {r : Fault} (h : step s = .fault r) :
    Host.Core.run core (k + 1) s = .fault r := run_of_fault core h

theorem core_run_of_refused {k : Nat} {s : State} {r : Refusal} (h : step s = .refused r) :
    Host.Core.run core (k + 1) s = .refused r := run_of_refused core h

end Sys2Proof.Machine
end

