-- ==== Sys2Proof/Laws/PerInstr.lean ====
section
/-! SUPPORT. What holds of every command as syntax, one lemma per command: the encoder writes the command's own number into
the opcode field (30_encoding.md R71, R72) and 0 into every operand field the command does not use (R81). -/

namespace Sys2Proof.Laws

/-- The opcode field of a packed word. -/
theorem fieldOp_packCmd (op : BitVec 4) (c b a : Word) : fieldOp (packCmd op c b a) = op := by
  ext k hk
  simp only [fieldOp, packCmd, BitVec.getElem_extractLsb', BitVec.getLsbD_append]
  simp [show ¬96 + k < 32 by omega, show ¬96 + k - 32 < 32 by omega, show 96 + k - 32 - 32 - 32 = k by omega,
    show ¬96 + k - 32 - 32 < 32 by omega, BitVec.getLsbD_eq_getElem hk]

/-- The encoded word carries the command's number, and is the packed word of the command's operand fields. -/
def EncodeOpcode.Statement (i : Instr) : Prop :=
  fieldOp (encode i) = i.opcode.bits ∧
    ∃ a b c : Word, encode i = packCmd i.opcode.bits c b a ∧
      (i.opcode.readings.length < 1 → a = 0) ∧ (i.opcode.readings.length < 2 → b = 0) ∧
      (i.opcode.readings.length < 3 → c = 0)

/-- A command that encodes as the packed word of its opcode and zeros beyond its operands. -/
theorem encodeOpcode_of_pack {i : Instr} {a b c : Word} (h : encode i = packCmd i.opcode.bits c b a)
    (ha : i.opcode.readings.length < 1 → a = 0) (hb : i.opcode.readings.length < 2 → b = 0)
    (hc : i.opcode.readings.length < 3 → c = 0) : EncodeOpcode.Statement i :=
  ⟨by rw [h, fieldOp_packCmd], a, b, c, h, ha, hb, hc⟩

theorem EncodeOpcode.process : Statement .process :=
  encodeOpcode_of_pack rfl (fun _ => rfl) (fun _ => rfl) (fun _ => rfl)
theorem EncodeOpcode.reset : Statement .reset :=
  encodeOpcode_of_pack rfl (fun _ => rfl) (fun _ => rfl) (fun _ => rfl)
theorem EncodeOpcode.new (a b : Word) : Statement (.new a b) :=
  encodeOpcode_of_pack rfl (fun h => by simp [Instr.opcode, Opcode.readings] at h)
    (fun h => by simp [Instr.opcode, Opcode.readings] at h) (fun _ => rfl)
theorem EncodeOpcode.newWithType (a b c : Word) : Statement (.newWithType a b c) :=
  encodeOpcode_of_pack rfl (fun h => by simp [Instr.opcode, Opcode.readings] at h)
    (fun h => by simp [Instr.opcode, Opcode.readings] at h)
    (fun h => by simp [Instr.opcode, Opcode.readings] at h)
theorem EncodeOpcode.default : Statement .default :=
  encodeOpcode_of_pack rfl (fun _ => rfl) (fun _ => rfl) (fun _ => rfl)
theorem EncodeOpcode.setFrequency (a : Word) : Statement (.setFrequency a) :=
  encodeOpcode_of_pack rfl (fun h => by simp [Instr.opcode, Opcode.readings] at h) (fun _ => rfl) (fun _ => rfl)
theorem EncodeOpcode.setAmplitude (a : Word) : Statement (.setAmplitude a) :=
  encodeOpcode_of_pack rfl (fun h => by simp [Instr.opcode, Opcode.readings] at h) (fun _ => rfl) (fun _ => rfl)
theorem EncodeOpcode.setDcOffset (a : Word) : Statement (.setDcOffset a) :=
  encodeOpcode_of_pack rfl (fun h => by simp [Instr.opcode, Opcode.readings] at h) (fun _ => rfl) (fun _ => rfl)
theorem EncodeOpcode.setPhaseOffset (a : Word) : Statement (.setPhaseOffset a) :=
  encodeOpcode_of_pack rfl (fun h => by simp [Instr.opcode, Opcode.readings] at h) (fun _ => rfl) (fun _ => rfl)
theorem EncodeOpcode.setWaveformType (a : Word) : Statement (.setWaveformType a) :=
  encodeOpcode_of_pack rfl (fun h => by simp [Instr.opcode, Opcode.readings] at h) (fun _ => rfl) (fun _ => rfl)
theorem EncodeOpcode.getFrequency : Statement .getFrequency :=
  encodeOpcode_of_pack rfl (fun _ => rfl) (fun _ => rfl) (fun _ => rfl)
theorem EncodeOpcode.getAmplitude : Statement .getAmplitude :=
  encodeOpcode_of_pack rfl (fun _ => rfl) (fun _ => rfl) (fun _ => rfl)
theorem EncodeOpcode.getDcOffset : Statement .getDcOffset :=
  encodeOpcode_of_pack rfl (fun _ => rfl) (fun _ => rfl) (fun _ => rfl)
theorem EncodeOpcode.getPhaseOffset : Statement .getPhaseOffset :=
  encodeOpcode_of_pack rfl (fun _ => rfl) (fun _ => rfl) (fun _ => rfl)
theorem EncodeOpcode.getWaveformType : Statement .getWaveformType :=
  encodeOpcode_of_pack rfl (fun _ => rfl) (fun _ => rfl) (fun _ => rfl)
theorem EncodeOpcode.getWaveformName : Statement .getWaveformName :=
  encodeOpcode_of_pack rfl (fun _ => rfl) (fun _ => rfl) (fun _ => rfl)

end Sys2Proof.Laws
end

