-- ==== Sys2Proof/Laws/Shapers.lean ====
section
/-! SUPPORT. What the tuning unit, the shapers, the gain stage and a command sequence can answer: said once, to be cited
instead of unfolded. -/

namespace Sys2Proof.Machine

/-! ## Tuning unit and phase-offset register -/

/-- Everything the tuning unit answers, as integers; nothing is cut off by the 32-bit registers. -/
theorem Block.tune_spec (b : Block) (f : Int) :
    ((b.tune f).freq.toNat : Int) = max 0 (min f (128 * b.sampleRate.toNat)) ∧
    (b.tune f).phaseInc.toNat = (b.tune f).freq.toNat * 2 ^ 24 / b.sampleRate.toNat := by
  have hle := clampFrequency_le f b.sampleRate.toNat
  have heq := clampFrequency_eq f b.sampleRate.toNat
  have htu := tuningWord_le hle
  have hrate := b.sampleRate.isLt
  simp only [Block.tune_freq, Block.tune_phaseInc, BitVec.toNat_ofNat]
  rw [Nat.mod_eq_of_lt (a := clampFrequency _ _) (by omega), Nat.mod_eq_of_lt (a := tuningWord _ _) (by omega)]
  exact ⟨heq, rfl⟩

/-- The normalised phase offset fits the 26-bit register. -/
theorem phoff_register_toInt (p : Int) :
    (BitVec.ofInt 26 (normalisePhaseOffset p)).toInt = normalisePhaseOffset p := by
  have hrange := normalisePhaseOffset_range p
  rw [BitVec.toInt_ofInt, Int.bmod_def]
  norm_num at *
  split <;> omega

/-! ## Sine -/

theorem romRead_le {i : Nat} (h : i ≤ 256) : romRead i ≤ 65536 := by
  have hall : ∀ j ≤ 256, romRead j ≤ 65536 := by decide +kernel
  exact hall i h

theorem sineFold_le (p : Word) : sineFold p ≤ 2 ^ 30 := by
  unfold sineFold slice
  split <;> omega

/-- Below the quarter turn the interpolator runs between two neighbouring entries. -/
theorem sineInterpolate_of_lt {m : Nat} (h : m < 2 ^ 30) :
    sineInterpolate m = romRead (m / 2 ^ 22) +
      (romRead (m / 2 ^ 22 + 1) - romRead (m / 2 ^ 22)) * (m / 2 ^ 6 % 2 ^ 16) / 2 ^ 16 := by
  unfold sineInterpolate
  simp only
  rw [if_neg (by omega)]

theorem sineInterpolate_quarter : sineInterpolate (2 ^ 30) = 65536 := by decide +kernel

/-- The sine shaper is the interpolated value with the sign of the half-wave. -/
theorem sineShape_cases (p : Word) :
    (p.toNat < 2 ^ 31 ∧ sineShape p = sineInterpolate (sineFold p)) ∨
    (2 ^ 31 ≤ p.toNat ∧ sineShape p = -(sineInterpolate (sineFold p) : Int)) := by
  have hp := p.isLt
  unfold sineShape slice
  split
  · exact .inl ⟨by omega, rfl⟩
  · exact .inr ⟨by omega, rfl⟩

/-! ## Ramps and noise -/

theorem rampPhase_eq (p : Word) : rampPhase p = p.toNat / 2 ^ 14 ∧ rampPhase p < 2 ^ 18 := by
  have hp := p.isLt
  unfold rampPhase slice
  omega

theorem lfsrSteps_zero (l : Word) : lfsrSteps 0 l = l := rfl

theorem lfsrSteps_succ (n : Nat) (l : Word) : lfsrSteps (n + 1) l = lfsrSteps n (lfsrStep l) := rfl

/-! ## Gain stage and PROCESS -/

/-- The gain stage is the offset plus the floored product. -/
theorem gainStage_spec (x a d : Int) :
    (gainStage x a d - d) * 2 ^ 16 ≤ x * a ∧ x * a < (gainStage x a d - d + 1) * 2 ^ 16 := by
  have h := asr_spec (x * a) 16
  rw [show gainStage x a d - d = asr (x * a) 16 by unfold gainStage; omega]
  exact h

/-- `PROCESS` on a constructed block whose type is a variant. -/
theorem execProcess_of_variant {s : State} {w : WaveformType} (h : s.constructed = true)
    (hw : WaveformType.ofBits s.wtype = some w) :
    execProcess s = .next (s.complete (s.advance w) ⟨.ok, sext64 (s.sample w)⟩) := by
  refine State.perform_of_next ?_
  simp only [whenConstructed_of_true h, hw]
  rfl

/-! ## Command sequences -/

theorem execAll_nil (s : State) : execAll [] s = .next s := rfl

theorem execAll_cons {i : Instr} {is : List Instr} {s t : State} (h : exec i s = .next t) :
    execAll (i :: is) s = execAll is t := by
  simp [execAll, h]

theorem processTimes_zero (s : State) : processTimes 0 s = .next s := rfl

theorem processTimes_succ {n : Nat} {s t : State} (h : exec .process s = .next t) :
    processTimes (n + 1) s = processTimes n t := by
  simp [processTimes, List.replicate_succ, execAll, h]

end Sys2Proof.Machine
end

