-- ==== Sys2Proof/Tests/Slice0.lean ====
section
/-! SUPPORT. Tests. Every expected value is taken from spec/, by the rule or the vector named beside it. After them, for
each statement with hypotheses, a theorem that meets them. -/

namespace Sys2Proof.Tests

open Sys2Proof Sys2Proof.Machine

/- One theorem after the other: elaborated side by side, these many kernel evaluations each reserve a thread's stack. -/
set_option Elab.async false

/-! ## Helpers -/

/-- The next state of an outcome. -/
def nextOf : Host.Outcome State Fault Refusal → Option State
  | .next t => some t
  | .fault _ => none
  | .refused _ => none

/-- The response an outcome leaves. -/
def rspOf (o : Host.Outcome State Fault Refusal) : Option Response := (nextOf o).bind fun t => t.rsp

/-- The block after `NEW 4, 256 !seed=1` (95_test_vectors.md E1). -/
def block : State :=
  { State.reset with
    sampleRate := 4, freq := 256, phaseInc := 0x40000000, amp := 65536, lfsr := 1, constructed := true, seedOk := true
    seedIn := 1 }

/-- The end state of program P1 (95_test_vectors.md). -/
def p1End : State :=
  { block with sampleRate := 8, phaseInc := 0x20000000, amp := 98304, dc := BitVec.ofInt 32 (-6554), phase := 0xC0000000 }

/-! ## Well-formedness: one ill-formed term for each check -/

theorem test_wf_packed_too_wide : packedWellFormed (2 ^ 100) = false := by decide
theorem test_wf_packed_widest : packedWellFormed (2 ^ 100 - 1) = true := by decide
theorem test_wf_operand_count : CmdLine.operandCountOk ⟨.new, [.decimal 4], .absent⟩ = false := by decide
theorem test_wf_sign : CmdLine.signsOk ⟨.new, [.negative 4, .decimal 256], .absent⟩ = false := by decide
theorem test_wf_operand_width : CmdLine.operandsFit ⟨.setAmplitude, [.decimal (2 ^ 32)], .absent⟩ = false := by decide
theorem test_wf_negative_width : CmdLine.operandsFit ⟨.setAmplitude, [.negative (2 ^ 31 + 1)], .absent⟩ = false := by decide
theorem test_wf_note_place : CmdLine.notePlaceOk ⟨.process, [], .noseed⟩ = false := by decide
theorem test_wf_note_value : CmdLine.noteValueOk ⟨.default, [], .seed (.hexadecimal (2 ^ 32))⟩ = false := by decide
theorem test_wf_good_line :
    CmdLine.wellFormed ⟨.newWithType, [.decimal 48000, .negative 1, .hexadecimal 4], .noseed⟩ = true := by decide

/-! ## The decoder: every constructor's word, written out from 30_encoding.md R71 and R72 -/

theorem test_decode_process : decode 0x0000000000000000000000000#100 = .process := by decide
theorem test_decode_reset : decode 0x1000000000000000000000000#100 = .reset := by decide
theorem test_decode_new : decode 0x2000000000001B8000000AC44#100 = .new 44100 112640 := by decide
theorem test_decode_newWithType : decode 0x3000000040003E8000000BB80#100 = .newWithType 48000 256000 4 := by decide
theorem test_decode_default : decode 0x4DEADBEEF1234567800000000#100 = .default := by decide
theorem test_decode_setFrequency : decode 0x50000000000000000FFFFFB00#100 = .setFrequency 0xFFFFFB00 := by decide
theorem test_decode_setAmplitude : decode 0x6000000000000000000018000#100 = .setAmplitude 98304 := by decide
theorem test_decode_setDcOffset : decode 0x70000000000000000FFFFE666#100 = .setDcOffset 0xFFFFE666 := by decide
theorem test_decode_setPhaseOffset : decode 0x80000000000000000FCFFFFFB#100 = .setPhaseOffset 0xFCFFFFFB := by decide
theorem test_decode_setWaveformType : decode 0x9000000000000000000000002#100 = .setWaveformType 2 := by decide
theorem test_decode_getFrequency : decode 0xA000000000000000000000000#100 = .getFrequency := by decide
theorem test_decode_getAmplitude : decode 0xB000000000000000000000000#100 = .getAmplitude := by decide
theorem test_decode_getDcOffset : decode 0xC000000000000000000000000#100 = .getDcOffset := by decide
theorem test_decode_getPhaseOffset : decode 0xD000000000000000000000000#100 = .getPhaseOffset := by decide
theorem test_decode_getWaveformType : decode 0xE000000000000000000000000#100 = .getWaveformType := by decide
theorem test_decode_getWaveformName : decode 0xF000000000000000000000000#100 = .getWaveformName := by decide
/-- R74: `CMD = 0x2_FFFFFFFF_0001B800_0000AC44` is `NEW 44100, 112640` (95_test_vectors.md V1). -/
theorem test_decode_ignores_c : decode 0x2FFFFFFFF0001B8000000AC44#100 = .new 44100 112640 := by decide
theorem test_decode_too_wide : decodePacked (2 ^ 100) = .error .widerThanCommand := by rfl
theorem test_decode_table_word : decodeTableWord 104 0x3000000040003E8000000BB80 = some (.newWithType 48000 256000 4) := by decide
theorem test_encode_newWithType : encode (.newWithType 48000 256000 4) = 0x3000000040003E8000000BB80#100 := by decide

/-! ## Text: the example of 30_encoding.md R81 -/

theorem test_line_example :
    (readLine ("NEW 44100, 112640 !seed=0x12345678 ; new(44100.0, 440.0)".toList)).bind (lineEvent · false 0) =
      some (.command 0x2000000000001B8000000AC44#100 true 0x12345678) := by decide +kernel
theorem test_line_negative :
    (readLine "SET_FREQUENCY -1280".toList).bind assemble = some 0x50000000000000000FFFFFB00#100 := by decide +kernel
theorem test_line_no_operands : readLine "PROCESS".toList = some ⟨.process, [], .absent⟩ := by decide +kernel
theorem test_line_noseed : readLine "DEFAULT !noseed".toList = some ⟨.default, [], .noseed⟩ := by decide +kernel
theorem test_line_lower_case : readLine "process".toList = none := by decide +kernel

/-! ## Parameters: State's widths are those of 00_scope.md R6 -/

theorem test_widths (s : State) :
    (∃ v : BitVec Config.sampleRateW, s.sampleRate = v) ∧ (∃ v : BitVec Config.freqW, s.freq = v) ∧
    (∃ v : BitVec Config.phaseW, s.phase = v) ∧ (∃ v : BitVec Config.ampW, s.amp = v) ∧ (∃ v : BitVec Config.dcW, s.dc = v) ∧
    (∃ v : BitVec Config.phoffW, s.phoff = v) ∧ (∃ v : BitVec Config.wtypeW, s.wtype = v) ∧
    (∃ v : BitVec Config.lfsrW, s.lfsr = v) :=
  ⟨⟨_, rfl⟩, ⟨_, rfl⟩, ⟨_, rfl⟩, ⟨_, rfl⟩, ⟨_, rfl⟩, ⟨_, rfl⟩, ⟨_, rfl⟩, ⟨_, rfl⟩⟩
theorem test_rom_length : sineRom.length = Config.lutEntries := by decide +kernel
theorem test_rom_fits : sineRom.all (fun v => decide (v < 2 ^ Config.lutW)) = true := by decide +kernel

/-! ## The commands, on the vectors of 95_test_vectors.md -/

theorem test_process_sine : nextOf (exec .process { block with phase := 0x40000000 }) =
    some { block with phase := 0x80000000, rsp := some ⟨.ok, 0x10000⟩ } := by decide +kernel
theorem test_process_noise :
    nextOf (exec .process { block with wtype := 4, lfsr := 0xDEADBEEF, phase := 0xFFFFFFFF, phaseInc := 1 }) =
      some { block with wtype := 4, lfsr := 0x96DC5A83, phase := 0, phaseInc := 1
                        rsp := some ⟨.ok, BitVec.ofInt 64 (-17061)⟩ } := by decide +kernel
theorem test_reset_clears_phase : nextOf (exec .reset p1End) =
    some { p1End with phase := 0, rsp := some ⟨.ok, 0⟩ } := by decide +kernel
/-- V1, re-construction on the P1 end state. -/
theorem test_new_again : nextOf (exec (.new 4 256) { p1End with seedIn := 2 }) =
    some { block with lfsr := 2, seedIn := 2, rsp := some ⟨.ok, 0⟩ } := by decide +kernel
theorem test_new_nyquist :
    (nextOf (exec (.new 0xFFFFFF 0x7FFFFFFF) block)).map (fun t => (t.freq, t.phaseInc)) =
      some (0x7FFFFF80#32, 0x80000000#32) := by decide +kernel
theorem test_newWithType_noise :
    (nextOf (exec (.newWithType 48000 256000 4) State.reset)).map (fun t => (t.wtype, t.phaseInc, t.lfsr)) =
      some (4#3, 0x05555555#32, 0xFFFFFFFF#32) := by decide +kernel
theorem test_newWithType_both_bad : rspOf (exec (.newWithType 0 256 5) block) = some ⟨.errWaveformType, 0⟩ := by decide +kernel
theorem test_default_increment :
    (nextOf (exec .default { State.reset with seedOk := true, seedIn := 0xCAFEF00D })).map
      (fun t => (t.freq, t.phaseInc, t.lfsr)) = some (112640#32, 0x028DDFB9#32, 0xCAFEF00D#32) := by decide +kernel
theorem test_setFrequency_below_limit :
    (nextOf (exec (.setFrequency 0x005621FF) { block with sampleRate := 44100 })).map (fun t => (t.freq, t.phaseInc)) =
      some (5644799#32, 0x7FFFFE83#32) := by decide +kernel
theorem test_setFrequency_most_negative :
    (nextOf (exec (.setFrequency 0x80000000) block)).map (fun t => (t.freq, t.phaseInc)) = some (0#32, 0#32) := by decide +kernel
theorem test_setAmplitude : nextOf (exec (.setAmplitude 0x80000000) block) =
    some { block with amp := 0x80000000, rsp := some ⟨.ok, 0⟩ } := by decide +kernel
theorem test_setDcOffset : nextOf (exec (.setDcOffset 0xFFFFE666) block) =
    some { block with dc := 0xFFFFE666, rsp := some ⟨.ok, 0⟩ } := by decide +kernel
theorem test_setPhaseOffset_negative :
    (nextOf (exec (.setPhaseOffset 0xFE000001) block)).map (fun t => t.phoff.toInt) = some (-16777215) := by decide +kernel
theorem test_setPhaseOffset_whole_turn :
    (nextOf (exec (.setPhaseOffset 0x01000000) block)).map (fun t => t.phoff.toInt) = some 16777216 := by decide +kernel
theorem test_setWaveformType_low_bits : nextOf (exec (.setWaveformType 8) { block with wtype := 2 }) =
    some { block with wtype := 2, rsp := some ⟨.errWaveformType, 0⟩ } := by decide +kernel
theorem test_setWaveformType_unconstructed : rspOf (exec (.setWaveformType 9) State.reset) =
    some ⟨.errNotConstructed, 0⟩ := by decide +kernel
theorem test_getFrequency : rspOf (exec .getFrequency { block with freq := 0xFFFFFFFF }) = some ⟨.ok, 0xFFFFFFFF⟩ := by
  decide +kernel
theorem test_getAmplitude : rspOf (exec .getAmplitude { block with amp := 0x80000000 }) =
    some ⟨.ok, 0xFFFFFFFF80000000⟩ := by decide +kernel
theorem test_getDcOffset : rspOf (exec .getDcOffset p1End) = some ⟨.ok, 0xFFFFFFFFFFFFE666⟩ := by decide +kernel
theorem test_getPhaseOffset : rspOf (exec .getPhaseOffset { block with phoff := BitVec.ofInt 26 (-5) }) =
    some ⟨.ok, 0xFFFFFFFFFFFFFFFB⟩ := by decide +kernel
theorem test_getWaveformType : rspOf (exec .getWaveformType { block with wtype := 4 }) = some ⟨.ok, 4⟩ := by decide +kernel
theorem test_getWaveformName : rspOf (exec .getWaveformName { block with wtype := 2 }) =
    some ⟨.ok, 0x656C676E61697254⟩ := by decide +kernel

/-! ## Shapers, LFSR and gain stage (95_test_vectors.md V7 to V10) -/

theorem test_sine_vectors :
    [0x003FFFFF, 0x12345678, 0x3FFFFFFF, 0x55555555, 0x7FFFFFC0, 0x9ABCDEF0, 0xBFFFFFFF, 0xC0000000].map sineShape =
      [401, 28316, 65535, 56755, 0, -39986, -65535, -65536] := by decide +kernel
theorem test_ramp_vectors :
    [0x12345678, 0x7FFFC000, 0x80000000, 0x9ABCDEF0, 0xFFFFFFFF].map triangleShape = [-46895, 65535, 65536, 38157, -65535] ∧
    [0x12345678, 0x7FFFC000, 0x80000000, 0x9ABCDEF0, 0xFFFFFFFF].map sawtoothShape = [-56216, -1, 0, 13689, 65535] ∧
    [0x7FFFFFFF, 0x80000000].map squareShape = [65536, -65536] := by decide +kernel
theorem test_lfsr_steps : [0xFFFFFFFF, 0x00000002, 0xDEADBEEF, 0x80200003].map lfsrStep =
    [0xFFDFFFFC, 0x00000001, 0xEF76DF74, 0xC0300002] := by decide +kernel
theorem test_lfsr_advance : [0xFFFFFFFF, 0x00000001, 0x12345678].map lfsrAdvance =
    [0x79FAEB6C, 0x8A0F3DB5, 0x0DBF73CF] := by decide +kernel
theorem test_noise_vectors : [0xFFFFFFFF, 0x79FAEB6C, 0x80000000, 0x00000001].map noiseShape = [-1, 62453, -65536, 0] := by
  decide +kernel
theorem test_gain_vectors :
    gainStage (-603) 32768 0 = -302 ∧ gainStage (-39986) (-163840) 65536 = 165501 ∧
    gainStage (-65536) (-2147483648) 2147483647 = 4294967295 ∧
    gainStage 65536 (-2147483648) (-2147483648) = -4294967296 := by decide +kernel

/-! ## Quantities (30_encoding.md R84) -/

theorem test_raw_frequency : rawFrequency 440 = some 112640 := by norm_num [rawFrequency, exactInt]
theorem test_raw_gain : rawGain (-1) = some (-65536) := by norm_num [rawGain, exactInt]
theorem test_raw_phase_offset : rawPhaseOffset (1 / 4) = some 4194304 := by norm_num [rawPhaseOffset, exactInt]
theorem test_raw_inexact : rawFrequency (1 / 512) = none := by norm_num [rawFrequency, exactInt]

/-! ## Steps -/

theorem test_first_step_after_reset :
    nextOf (step (State.reset.withFetchWord 104 0x4000000000000000000000000)) = nextOf (exec .default State.reset) := by
  decide +kernel
theorem test_step_idle : nextOf (step { block with rsp := some ⟨.ok, 7⟩ }) = some block := by decide +kernel

/-! ## Witnesses: for each statement with hypotheses, concrete states and operands that meet them, each clause at a
boundary of its range -/

/-- The block on the eve of command word `w`. -/
def presented (w : CmdWord) : State := { block with host := [.command w true 2, .hardwareReset] }

theorem witness_DecodeOfEncodeIsIdentity :
    (100 : Nat) ≤ 100 ∧ decodeTableWord 100 (encode (.newWithType 0xFFFFFFFF 0 0xFFFFFFFF)).toNat =
      some (.newWithType 0xFFFFFFFF 0 0xFFFFFFFF) := by decide +kernel
theorem witness_UnusedOperandFieldsAreIgnored :
    ((2#4).toNat ∈ [2, 3, 5, 6, 7, 8, 9] → (1#32) = 1) ∧ ((2#4).toNat ∈ [2, 3] → (7#32) = 7) ∧
    ((2#4).toNat = 3 → (0#32) = 0xFFFFFFFF) ∧
    ((4#4).toNat ∈ [2, 3, 5, 6, 7, 8, 9] → (0#32) = 1) ∧ ((4#4).toNat ∈ [2, 3] → (0#32) = 1) := by decide
theorem witness_StepRunsTheDecodedCommand :
    (presented 0x9000000000000000000000003).host = .command 0x9000000000000000000000003 true 2 :: [.hardwareReset] ∧
    nextOf (step (presented 0x9000000000000000000000003)) =
      some { block with wtype := 3, seedIn := 2, host := [.hardwareReset], rsp := some ⟨.ok, 0⟩ } := by decide +kernel
theorem witness_FetchWordRunsTheInstruction :
    (100 : Nat) ≤ 100 ∧ nextOf (step (block.withFetchWord 100 (encode .getFrequency).toNat)) =
      some { block with rsp := some ⟨.ok, 256⟩ } := by decide +kernel
theorem witness_IdleStepHoldsTheRegisters : block.host = [] := by decide
theorem witness_HardwareResetEventClearsConstructed :
    ({ block with host := [.hardwareReset] } : State).host = .hardwareReset :: [] := by decide
theorem witness_UnconstructedBlockRejectsAllButConstructors :
    State.reset.constructed = false ∧ Instr.isConstructor (.setWaveformType 9) = false ∧
    rspOf (exec (.setWaveformType 9) State.reset) = some ⟨.errNotConstructed, 0⟩ := by decide +kernel
/-- Each cause, and none, is reached. -/
theorem witness_OnlyTheListedCausesReject :
    nextOf (exec .process State.reset) = some { State.reset with rsp := some ⟨.errNotConstructed, 0⟩ } ∧
    nextOf (exec (.new 0x1000000 256) block) = some { block with rsp := some ⟨.errSampleRate, 0⟩ } ∧
    nextOf (exec (.newWithType 0 256 4) block) = some { block with rsp := some ⟨.errSampleRate, 0⟩ } ∧
    nextOf (exec (.newWithType 0 256 5) block) = some { block with rsp := some ⟨.errWaveformType, 0⟩ } ∧
    nextOf (exec (.setWaveformType 5) block) = some { block with rsp := some ⟨.errWaveformType, 0⟩ } ∧
    nextOf (exec .getFrequency block) = some { block with rsp := some ⟨.ok, 256⟩ } := by decide +kernel
theorem witness_RejectionChangesNoRegister :
    nextOf (exec (.new 0 256) p1End) = some { p1End with rsp := some ⟨.errSampleRate, 0⟩ } ∧ Status.errSampleRate ≠ .ok := by
  decide +kernel
/-- A constructed block answers each row with its data; `SET_AMPLITUDE` is a row whose data is 0. -/
theorem witness_EveryCommandAnswersOnce :
    rspOf (exec .process { p1End with phase := 0xA0000000 }) = some ⟨.ok, BitVec.ofInt 64 (-76066)⟩ ∧
    rspOf (exec .getAmplitude p1End) = some ⟨.ok, 98304⟩ ∧
    rspOf (exec .getDcOffset p1End) = some ⟨.ok, BitVec.ofInt 64 (-6554)⟩ ∧
    rspOf (exec .getPhaseOffset p1End) = some ⟨.ok, 0⟩ ∧ rspOf (exec .getFrequency p1End) = some ⟨.ok, 256⟩ ∧
    rspOf (exec .getWaveformType p1End) = some ⟨.ok, 0⟩ ∧
    rspOf (exec .getWaveformName p1End) = some ⟨.ok, 0x656E6953⟩ ∧
    rspOf (exec (.setAmplitude 1) p1End) = some ⟨.ok, 0⟩ := by decide +kernel
theorem witness_NewConstructsOrRejects :
    (1 ≤ (1#32).toNat ∧ (1#32).toNat < 2 ^ 24) ∧ (1 ≤ (0xFFFFFF#32).toNat ∧ (0xFFFFFF#32).toNat < 2 ^ 24) ∧
    ((0#32).toNat = 0 ∨ 2 ^ 24 ≤ (0#32).toNat) ∧ ((0x1000000#32).toNat = 0 ∨ 2 ^ 24 ≤ (0x1000000#32).toNat) := by decide
theorem witness_NewWithTypeConstructsOrRejects :
    ((4#32).toNat ≤ 4 ∧ 1 ≤ (0xFFFFFF#32).toNat ∧ (0xFFFFFF#32).toNat < 2 ^ 24) ∧ 4 < (5#32).toNat ∧
    ((4#32).toNat ≤ 4 ∧ ((0x1000000#32).toNat = 0 ∨ 2 ^ 24 ≤ (0x1000000#32).toNat)) := by decide
theorem witness_ConstructorEquivalences :
    (4#32).toNat ≤ 4 ∧ 1 ≤ (1#32).toNat ∧ (1#32).toNat < 2 ^ 24 ∧
    nextOf (execAll [.new 1 128, .setWaveformType 4] block) = nextOf (exec (.newWithType 1 128 4) block) := by decide +kernel
theorem witness_ConstructionForgetsTheOldState :
    Instr.isConstructor (.new 4 256) = true ∧ block.seedOk = p1End.seedOk ∧ block.seedIn = p1End.seedIn ∧
    block.host = p1End.host ∧ block.draws = p1End.draws ∧ block ≠ p1End ∧
    nextOf (exec (.new 4 256) p1End) = some { block with rsp := some ⟨.ok, 0⟩ } := by decide +kernel
theorem witness_SetFrequencyClampsAndTunes :
    (block.constructed = true ∧ block.sampleRate ≠ 0) ∧ State.reset.constructed = false ∧
    nextOf (exec (.setFrequency 513) block) = some { block with freq := 512, phaseInc := 0x80000000, rsp := some ⟨.ok, 0⟩ } := by
  decide +kernel
/-- Legal blocks inside the band and at the Nyquist limit. -/
theorem witness_TuningWordIsTheFlooredReference :
    block.Legal ∧ ({ block with freq := 512, phaseInc := 0x80000000 } : State).Legal := by decide +kernel
theorem witness_SetGainRegistersVerbatim : block.constructed = true ∧ State.reset.constructed = false := by decide
/-- The two ends of the closed interval, and the two values beside it. -/
theorem witness_SetPhaseOffsetNormalises :
    block.constructed = true ∧ State.reset.constructed = false ∧
    [0x01000000, 0xFF000000, 0x01000001, 0xFEFFFFFF].map
      (fun a => (nextOf (exec (.setPhaseOffset a) block)).map (fun t => t.phoff.toInt)) =
      [some 16777216, some (-16777216), some 1, some (-1)] := by decide +kernel
theorem witness_SetWaveformTypeConvertsOrRejects :
    (block.constructed = true ∧ (4#32).toNat ≤ 4) ∧ 4 < (5#32).toNat ∧ State.reset.constructed = false := by decide
theorem witness_ResetCommandClearsPhaseOnly : p1End.constructed = true ∧ State.reset.constructed = false := by decide
theorem witness_NumericGettersAnswerTheRegister :
    p1End.constructed = true ∧ State.reset.constructed = false ∧
    Instr.getWaveformType ∈ [Instr.getFrequency, .getAmplitude, .getDcOffset, .getPhaseOffset, .getWaveformType] := by decide
theorem witness_GetWaveformNameAnswersTheName :
    [0, 1, 2, 3, 4].map (fun v => rspOf (exec .getWaveformName { block with wtype := v })) =
      [some ⟨.ok, 0x00000000656E6953⟩, some ⟨.ok, 0x0000657261757153⟩, some ⟨.ok, 0x656C676E61697254⟩,
        some ⟨.ok, 0x68746F6F74776153⟩, some ⟨.ok, 0x0000006573696F4E⟩] ∧ State.reset.constructed = false := by decide +kernel
theorem witness_SetThenGetAnswersWhatWasStored :
    block.constructed = true ∧ block.sampleRate ≠ 0 ∧ (4#32).toNat ≤ 4 := by decide
/-- All five variants, at a constructed block; the expected samples are E1 to E3 and P2. -/
theorem witness_ProcessRunsTheSelectedShaper :
    [0, 1, 2, 3, 4].map (fun v => rspOf (exec .process { block with wtype := v, phase := 0x80000000, lfsr := 0xFFFFFFFF })) =
      [some ⟨.ok, 0⟩, some ⟨.ok, BitVec.ofInt 64 (-65536)⟩, some ⟨.ok, 65536⟩, some ⟨.ok, 0⟩, some ⟨.ok, BitVec.ofInt 64 (-1)⟩] ∧
    State.reset.constructed = false := by decide +kernel
theorem witness_SampleIsTheFlooredReference :
    (65536 : Int) ∣ shape .square block.phase block.lfsr * block.amp.toInt := by decide +kernel
theorem witness_SineSymmetriesAreExact :
    (0 < (1#32).toNat ∧ (1#32).toNat < 2 ^ 31) ∧ (0 < (0x7FFFFFFF#32).toNat ∧ (0x7FFFFFFF#32).toNat < 2 ^ 31) := by decide
theorem witness_SineRisesInQuadrantZero :
    (0x003FFFFF#32).toNat ≤ (0x3FFFFFFF#32).toNat ∧ (0x3FFFFFFF#32).toNat < 2 ^ 30 := by decide
theorem witness_SineDependsOnTheTopBitsAndHitsTheTable :
    ((0x3FFFFFC0#32).toNat < 2 ^ 30 ∧ (0x3FFFFFFF#32).toNat < 2 ^ 30 ∧
      (0x3FFFFFC0#32).toNat / 2 ^ 6 = (0x3FFFFFFF#32).toNat / 2 ^ 6) ∧ (256 : Nat) ≤ 256 ∧ (255 : Nat) < 256 ∧
    sineShape (BitVec.ofNat 32 (256 * 2 ^ 22)) = romRead 256 := by decide +kernel
theorem witness_ComparatorAndRampShapes : (0x7FFFFFFF#32).toNat < 2 ^ 31 ∧ 2 ^ 31 ≤ (0x80000000#32).toNat := by decide
theorem witness_LfsrStepBitByBit : (31 : Nat) < 32 := by decide
theorem witness_LfsrNeverReachesZero : (1#32) ≠ 0 := by decide
theorem witness_StateAfterManyProcessCommands :
    block.constructed = true ∧ ({ block with wtype := 4 } : State).constructed = true ∧
    ({ block with wtype := 4 } : State).wtype.toNat ≤ 4 ∧ block.wtype.toNat ≤ 4 := by decide
theorem witness_PhaseDrivenSamplesAreAFunctionOfTheCount :
    block.constructed = true ∧ block.phase = 0 ∧ WaveformType.sine ≠ .noise ∧
    WaveformType.ofBits block.wtype = some .sine := by decide
theorem witness_ZeroAmplitudeAnswersTheOffset :
    p1End.constructed = true ∧ p1End.wtype.toNat ≤ 4 ∧
    rspOf (execAll (.setAmplitude 0 :: List.replicate (2 + 1) .process) { p1End with wtype := 4 }) =
      some ⟨.ok, BitVec.ofInt 64 (-6554)⟩ := by decide +kernel
theorem witness_OffsetAddsExactly : p1End.constructed = true ∧ p1End.wtype.toNat ≤ 4 := by decide
theorem witness_ResetRepeatsTheFirstSample :
    ({ block with wtype := 3 } : State).constructed = true ∧ ({ block with wtype := 3 } : State).wtype.toNat < 4 ∧
    ({ block with wtype := 3 } : State).phase = 0 := by decide
/-- P3, rows 1 to 3: the noise block right after construction with the fallback seed; a second block shows that the general
clauses do not need that seed (95_test_vectors.md V9, seed 0xDEADBEEF). -/
theorem witness_ResetDoesNotRewindTheNoise :
    ({ block with wtype := 4, lfsr := 0xFFFFFFFF } : State).constructed = true ∧
    ({ block with wtype := 4, lfsr := 0xFFFFFFFF } : State).wtype = 4 ∧
    ({ block with wtype := 4, lfsr := 0xFFFFFFFF } : State).lfsr = 0xFFFFFFFF ∧
    ({ block with wtype := 4, lfsr := 0xFFFFFFFF } : State).amp = 65536 ∧
    rspOf (execAll [.process, .reset, .process] { block with wtype := 4, lfsr := 0xDEADBEEF }) =
      some ⟨.ok, BitVec.ofInt 64 (-53832)⟩ := by decide +kernel
theorem witness_PhaseOffsetIsDeadState :
    nextOf (processTimes 1 p1End) = some { p1End with phase := 0xE0000000, rsp := some ⟨.ok, BitVec.ofInt 64 (-104858)⟩ } := by
  decide +kernel
theorem witness_FirstSampleByType : block.constructed = true ∧ block.phase = 0 := by decide
theorem witness_StepKeepsTheInvariant :
    (presented 0x0000000000000000000000000).Inv ∧
    (nextOf (step (presented 0x0000000000000000000000000))).isSome = true := by decide +kernel
/-- `DEFAULT`, presented after reset, constructs in one step. -/
theorem witness_ReachableConstructedStatesAreLegal :
    ∃ t : State, Host.Core.run core 1 { State.reset with host := [.command 0x4000000000000000000000000 false 0] } = .next t ∧
      t.constructed = true :=
  ⟨_, rfl, rfl⟩
theorem witness_LegalRunsNeverStop : block.Inv ∧ block.constructed = true := by decide +kernel
/-- Two unconstructed blocks with different unspecified registers. -/
theorem witness_UnspecifiedRegistersAreNeverObserved :
    State.reset.SameToHost { State.reset with phase := 0xFFFFFFFF, lfsr := 7, wtype := 7 } ∧
    State.reset ≠ { State.reset with phase := 0xFFFFFFFF, lfsr := 7, wtype := 7 } := by decide
theorem witness_OnlyHardwareResetUnconstructs :
    (∃ t, step { block with host := [.hardwareReset] } = .next t ∧
      ({ block with host := [.hardwareReset] } : State).constructed = true ∧ t.constructed = false) ∧
    (∃ t, step { State.reset with host := [.command 0x4000000000000000000000000 false 0] } = .next t ∧
      State.reset.constructed = false ∧ t.constructed = true) :=
  ⟨⟨_, rfl, rfl, rfl⟩, ⟨_, rfl, rfl, rfl⟩⟩
/-- Every register does change at one of its writers. -/
theorem witness_RegistersHaveOnlyTheirWriters :
    (nextOf (exec (.newWithType 16 128 1) { p1End with phoff := 3, dc := 9, lfsr := 5 })).map
      (fun t => [t.sampleRate != 8, t.freq != 256, t.phaseInc != 0x20000000, t.amp != 98304, t.dc != 9, t.phoff != 3,
        t.wtype != 0, t.phase != 0xC0000000, t.lfsr != 5]) = some (List.replicate 9 true) ∧
    (nextOf (exec (.new 4 256) State.reset)).map (fun t => t.constructed) = some true ∧
    (nextOf (exec .process { block with wtype := 4 })).map (fun t => t.lfsr) = some 0x8A0F3DB5 := by decide +kernel
theorem witness_SeedPortIsReadByConstructorsAlone :
    (Instr.isConstructor .getFrequency = false ∧
      nextOf (exec .getFrequency block) = some { block with rsp := some ⟨.ok, 256⟩ }) ∧
    (({ block with seedOk := false } : State).seedOk = false ∧
      (nextOf (exec (.new 4 256) { block with seedOk := false })).map (fun t => t.lfsr) = some 0xFFFFFFFF) := by decide +kernel
theorem witness_UnreachableWaveformTypeStops :
    ({ block with wtype := 5 } : State).constructed = true ∧ 4 < ({ block with wtype := 5 } : State).wtype.toNat ∧
    4 < ({ block with wtype := 7 } : State).wtype.toNat := by decide
theorem witness_ZeroSampleRateStops :
    ({ block with sampleRate := 0 } : State).constructed = true ∧ ({ block with sampleRate := 0 } : State).sampleRate = 0 := by
  decide
theorem witness_AssembledLineDecodesToItsCommand :
    CmdLine.wellFormed ⟨.setFrequency, [.negative 1280], .absent⟩ = true ∧
    assemble ⟨.setFrequency, [.negative 1280], .absent⟩ = some 0x50000000000000000FFFFFB00#100 ∧
    CmdLine.wellFormed ⟨.setFrequency, [], .absent⟩ = false ∧
    ([Literal.negative 1280] : List Literal)[0]? = some (.negative 1280) ∧
    ([Literal.negative 1280] : List Literal).length ≤ 1 ∧
    (2 ^ 32 - 1 : Nat) < 2 ^ 32 ∧ (2 ^ 31 : Nat) ≤ 2 ^ 31 ∧ (literalWord (.negative (2 ^ 31))).toInt = -2 ^ 31 := by
  decide +kernel
theorem witness_SeedAnnotationFixesTheSeedPort :
    CmdLine.wellFormed ⟨.default, [], .seed (.hexadecimal 0xCAFEF00D)⟩ = true ∧
    lineEvent ⟨.default, [], .seed (.hexadecimal 0xCAFEF00D)⟩ false 0 =
      some (.command 0x4000000000000000000000000 true 0xCAFEF00D) ∧
    CmdLine.wellFormed ⟨.default, [], .noseed⟩ = true ∧ CmdLine.wellFormed ⟨.default, [], .absent⟩ = true := by
  decide +kernel
/-- Two systems around one block, with a response and events in one of them; and a block at which a command faults. -/
theorem witness_CommandsDependOnTheBlockAndTheSeedInputsAlone :
    block.toBlock = ({ block with rsp := some ⟨.ok, 7⟩, host := [.hardwareReset], draws := 3 } : State).toBlock ∧
    nextOf (exec .getFrequency { block with rsp := some ⟨.ok, 7⟩, host := [.hardwareReset], draws := 3 }) =
      some { block with rsp := some ⟨.ok, 256⟩, host := [.hardwareReset], draws := 3 } ∧
    exec .process { block with wtype := 5 } = .fault .waveformTypeUnreachable :=
  ⟨by decide, by decide +kernel, rfl⟩

end Sys2Proof.Tests
end

namespace Sys2Proof.Machine

/-- Settles O6: `State.accept` is by definition the sampling of the seed port with the event leaving the host's stream, so
the law of `step` at a presented command is the statement. -/
theorem stepRunsTheDecodedCommand : Obligations.StepRunsTheDecodedCommand := by
  intro s w ok seed rest hhost
  calc step s = exec (decode w) (s.accept ok seed rest) := step_of_command hhost
    _ = exec (decode w) { s with seedOk := ok, seedIn := seed, host := rest } := rfl

end Sys2Proof.Machine

namespace Sys2Proof.Machine

/-! # The registers: who writes them, the invariant of 10_state.md R38, and what commands depend on -/

/-! ## What a command can write -/

/-- All that a completing command can do to the ten registers (10_state.md R20, the column "written by"): a rejection and a
getter write nothing, a constructor writes them all, any other command runs at a constructed block and writes its own. -/
inductive RegisterWrite : Instr → Block → Block → Prop
  | unchanged (i : Instr) (b : Block) : RegisterWrite i b b
  | construct {i : Instr} (hi : i.isConstructor = true) (b : Block) {rate : BitVec 24} (hrate : 1 ≤ rate.toNat) (f : Int)
      (ok : Bool) (pin : Word) {w : BitVec 3} (hw : w.toNat ≤ 4) :
      RegisterWrite i b { b.construct rate f (seedValue ok pin) with wtype := w }
  | setFrequency {b : Block} (hb : b.constructed = true) (hrate : b.sampleRate ≠ 0) (a : Word) :
      RegisterWrite (.setFrequency a) b (b.tune (s32 a))
  | setAmplitude {b : Block} (hb : b.constructed = true) (a : Word) :
      RegisterWrite (.setAmplitude a) b { b with amp := a }
  | setDcOffset {b : Block} (hb : b.constructed = true) (a : Word) :
      RegisterWrite (.setDcOffset a) b { b with dc := a }
  | setPhaseOffset {b : Block} (hb : b.constructed = true) (a : Word) :
      RegisterWrite (.setPhaseOffset a) b { b with phoff := BitVec.ofInt 26 (normalisePhaseOffset (s32 a)) }
  | setWaveformType {b : Block} (hb : b.constructed = true) (a : Word) {w : BitVec 3} (hw : w.toNat ≤ 4) :
      RegisterWrite (.setWaveformType a) b { b with wtype := w }
  | reset {b : Block} (hb : b.constructed = true) : RegisterWrite .reset b { b with phase := 0 }
  | process {b : Block} (hb : b.constructed = true) {v : WaveformType} (hv : WaveformType.ofBits b.wtype = some v) :
      RegisterWrite .process b (b.advance v)

/-- A constructor is rejected by its operands alone, or it constructs; the block before it decides neither. -/
theorem exec_of_constructor {i : Instr} (hi : i.isConstructor = true) :
    (∃ cause : Status, ∀ s, exec i s = .next (s.complete s.toBlock ⟨cause, 0⟩)) ∨
    (∃ (rate : BitVec 24) (f : Int) (w : BitVec 3), 1 ≤ rate.toNat ∧ w.toNat ≤ 4 ∧
      ∀ s, exec i s =
        .next (s.complete { s.construct rate f (seedValue s.seedOk s.seedIn) with wtype := w } ⟨.ok, 0⟩)) := by
  unfold exec
  cases i <;> cases hi
  case new a b =>
    rcases readSampleRate_spec a with ⟨hr, -⟩ | ⟨rate, hr, hn, h1, -⟩
    · exact .inl ⟨.errSampleRate, fun s => State.perform_of_next (by simp only [hr]; rfl)⟩
    · exact .inr ⟨rate, s32 b, 0, by omega, by decide, fun s => State.perform_of_next (by simp only [hr]; rfl)⟩
  case newWithType a b c =>
    rcases readDiscriminant_spec c with ⟨hd, -⟩ | ⟨w, hd, hw, hc⟩
    · exact .inl ⟨.errWaveformType, fun s => State.perform_of_next (by simp only [hd]; rfl)⟩
    rcases readSampleRate_spec a with ⟨hr, -⟩ | ⟨rate, hr, hn, h1, -⟩
    · exact .inl ⟨.errSampleRate, fun s => State.perform_of_next (by simp only [hd, hr]; rfl)⟩
    · exact .inr ⟨rate, s32 b, w, by omega, by omega, fun s => State.perform_of_next (by simp only [hd, hr]; rfl)⟩
  case default =>
    exact .inr ⟨Config.defaultSampleRate, Config.defaultFrequency, 0, by decide, by decide, fun s => rfl⟩

/-- An outcome of command `i` at `s`: completed with one of the writes listed for `i`, or stopped for a named fault. -/
def Answers (i : Instr) (s : State) (o : Host.Outcome State Fault Refusal) : Prop :=
  (∃ (b : Block) (r : Response), RegisterWrite i s.toBlock b ∧ o = .next (s.complete b r)) ∨ (∃ f : Fault, o = .fault f)

/-- A guarded command answers when its body does at a constructed block: else it is the rejection with code 1. -/
theorem answers_of_guarded {i : Instr} {s : State} {body : Block → CommandOutcome}
    (hbody : s.constructed = true →
      (∃ b r, RegisterWrite i s.toBlock b ∧ body s.toBlock = .next ⟨b, r⟩) ∨ (∃ f, body s.toBlock = .fault f)) :
    Answers i s (s.perform fun b => whenConstructed b (body b)) := by
  cases hs : s.constructed with
  | false => exact .inl ⟨_, _, .unchanged i s.toBlock, perform_of_unconstructed hs body⟩
  | true =>
    have hguard := whenConstructed_of_true hs (body s.toBlock)
    rcases hbody hs with ⟨b, r, hwrite, hnext⟩ | ⟨f, hfault⟩
    · exact .inl ⟨b, r, hwrite, State.perform_of_next (hguard.trans hnext)⟩
    · exact .inr ⟨f, State.perform_of_fault (hguard.trans hfault)⟩

theorem answers_of_constructor {i : Instr} (hi : i.isConstructor = true) (s : State) : Answers i s (exec i s) := by
  rcases exec_of_constructor hi with ⟨cause, hreject⟩ | ⟨rate, f, w, hrate, hw, hconstruct⟩
  · exact .inl ⟨_, _, .unchanged i s.toBlock, hreject s⟩
  · exact .inl ⟨_, _, .construct hi s.toBlock hrate f s.seedOk s.seedIn hw, hconstruct s⟩

/-- Said once for all sixteen commands: every command answers, and writes only what is listed for it. -/
theorem exec_answers (i : Instr) (s : State) : Answers i s (exec i s) := by
  unfold exec
  cases i with
  | new a b => exact answers_of_constructor rfl s
  | newWithType a b c => exact answers_of_constructor rfl s
  | default => exact answers_of_constructor rfl s
  | process =>
    refine answers_of_guarded fun hs => ?_
    rcases ofBits_spec s.wtype with ⟨v, hv, -, -⟩ | ⟨hnone, -⟩
    · exact .inl ⟨_, _, .process hs hv, by simp only [hv]; rfl⟩
    · exact .inr ⟨.waveformTypeUnreachable, by simp only [hnone]⟩
  | setFrequency a =>
    refine answers_of_guarded fun hs => ?_
    by_cases hzero : s.sampleRate = 0
    · exact .inr ⟨_, if_pos hzero⟩
    · exact .inl ⟨_, _, .setFrequency hs hzero a, if_neg hzero⟩
  | setWaveformType a =>
    refine answers_of_guarded fun hs => .inl ?_
    rcases readDiscriminant_spec a with ⟨hd, -⟩ | ⟨w, hd, hw, ha⟩
    · exact ⟨_, _, .unchanged _ _, by simp only [hd]; rfl⟩
    · exact ⟨_, _, .setWaveformType hs a (hw.trans_le ha), by simp only [hd]; rfl⟩
  | getWaveformName =>
    refine answers_of_guarded fun _ => ?_
    rcases ofBits_spec s.wtype with ⟨v, hv, -, -⟩ | ⟨hnone, -⟩
    · exact .inl ⟨_, _, .unchanged _ _, by simp only [hv]; rfl⟩
    · exact .inr ⟨.waveformTypeUnreachable, by simp only [hnone]⟩
  | reset => exact answers_of_guarded fun hs => .inl ⟨_, _, .reset hs, rfl⟩
  | setAmplitude a => exact answers_of_guarded fun hs => .inl ⟨_, _, .setAmplitude hs a, rfl⟩
  | setDcOffset a => exact answers_of_guarded fun hs => .inl ⟨_, _, .setDcOffset hs a, rfl⟩
  | setPhaseOffset a => exact answers_of_guarded fun hs => .inl ⟨_, _, .setPhaseOffset hs a, rfl⟩
  | getFrequency => exact answers_of_guarded fun _ => .inl ⟨_, _, .unchanged _ _, rfl⟩
  | getAmplitude => exact answers_of_guarded fun _ => .inl ⟨_, _, .unchanged _ _, rfl⟩
  | getDcOffset => exact answers_of_guarded fun _ => .inl ⟨_, _, .unchanged _ _, rfl⟩
  | getPhaseOffset => exact answers_of_guarded fun _ => .inl ⟨_, _, .unchanged _ _, rfl⟩
  | getWaveformType => exact answers_of_guarded fun _ => .inl ⟨_, _, .unchanged _ _, rfl⟩

/-- A command that answers a next state did one of the listed writes, and changed the response port beside them. -/
theorem exec_next_registerWrite {i : Instr} {s t : State} (h : exec i s = .next t) :
    ∃ (b : Block) (r : Response), RegisterWrite i s.toBlock b ∧ t = s.complete b r := by
  rcases exec_answers i s with ⟨b, r, hwrite, hnext⟩ | ⟨f, hfault⟩
  · exact ⟨b, r, hwrite, by simpa using h.symm.trans hnext⟩
  · cases h.symm.trans hfault

theorem exec_ne_refused (i : Instr) (s : State) (r : Refusal) : exec i s ≠ .refused r := by
  intro h
  rcases exec_answers i s with ⟨_, _, _, hnext⟩ | ⟨_, hfault⟩
  · cases h.symm.trans hnext
  · cases h.symm.trans hfault

/-! ## The LFSR keeps away from 0 -/

theorem lfsrStep_ne_zero {l : Word} (h : l ≠ 0) : lfsrStep l ≠ 0 := by
  unfold lfsrStep
  split
  · -- the mask sets bit 31, which the shift has cleared
    intro hzero
    have hbit := congrArg (BitVec.getLsbD · 31) hzero
    simp [Config.lfsrMask] at hbit
  · -- bit 0 was 0, so the shift loses nothing
    rename_i hbit
    intro hzero
    have heven : l.toNat % 2 = 0 := by simpa [BitVec.getLsbD, Nat.testBit_zero] using hbit
    have hhalf : l.toNat / 2 = 0 := by simpa [Nat.shiftRight_eq_div_pow] using congrArg BitVec.toNat hzero
    exact h (BitVec.eq_of_toNat_eq (show l.toNat = 0 by omega))

theorem lfsrSteps_ne_zero (n : Nat) {l : Word} (h : l ≠ 0) : lfsrSteps n l ≠ 0 := by
  induction n generalizing l with
  | zero => exact h
  | succ n ih => exact ih (lfsrStep_ne_zero h)

theorem lfsrAdvance_ne_zero {l : Word} (h : l ≠ 0) : lfsrAdvance l ≠ 0 := lfsrSteps_ne_zero _ h

/-! ## The invariant of 10_state.md R38 -/

/-- The tuning unit establishes (b) and (c); the other clauses are of registers that it leaves. -/
theorem Block.tune_legal {b : Block} (f : Int) (hrate : 1 ≤ b.sampleRate.toNat)
    (hphoff : -2 ^ 24 ≤ b.phoff.toInt ∧ b.phoff.toInt ≤ 2 ^ 24) (hwtype : b.wtype.toNat ≤ 4) (hlfsr : b.lfsr ≠ 0) :
    (b.tune f).Legal := by
  obtain ⟨hfreq, hinc⟩ := b.tune_spec f
  have hnyquist : (b.tune f).freq.toNat ≤ 128 * b.sampleRate.toNat := by omega
  have hhalf : (b.tune f).phaseInc.toNat ≤ 2 ^ 31 := hinc ▸ tuningWord_le hnyquist
  have hwidth := b.sampleRate.isLt
  exact ⟨⟨hrate, by simp only [Block.tune_sampleRate]; omega⟩, hnyquist, ⟨hinc, hhalf⟩, hphoff, hwtype, hlfsr,
    (b.tune f).phase.isLt⟩

theorem Block.construct_legal (b : Block) {rate : BitVec 24} (hrate : 1 ≤ rate.toNat) (f : Int) {seed : Word}
    (hseed : seed ≠ 0) {w : BitVec 3} (hw : w.toNat ≤ 4) : Block.Legal { b.construct rate f seed with wtype := w } :=
  Block.tune_legal (b := { b.construct rate f seed with wtype := w }) f hrate (by simp) hw hseed

/-- `PROCESS` moves `PHASE`, which wraps in its width, and `LFSR`, which stays away from 0. -/
theorem Block.advance_legal {b : Block} (h : b.Legal) (v : WaveformType) : (b.advance v).Legal := by
  obtain ⟨hrate, hfreq, hinc, hphoff, hwtype, hlfsr, -⟩ := h
  have hlfsr' : (b.advance v).lfsr ≠ 0 := by
    rw [Block.advance_lfsr]
    split
    · exact lfsrAdvance_ne_zero hlfsr
    · exact hlfsr
  exact ⟨hrate, hfreq, hinc, hphoff, hwtype, hlfsr', (b.advance v).phase.isLt⟩

theorem RegisterWrite.keeps_inv {i : Instr} {b b' : Block} (h : RegisterWrite i b b') (hinv : b.Inv) : b'.Inv := by
  intro hconstructed
  cases h with
  | unchanged => exact hinv hconstructed
  | construct _ _ hrate f ok pin hw => exact b.construct_legal hrate f (seedValue_ne_zero ok pin) hw
  | setFrequency hb _ a =>
    obtain ⟨hrate, -, -, hphoff, hwtype, hlfsr, -⟩ := hinv hb
    exact Block.tune_legal (s32 a) hrate.1 hphoff hwtype hlfsr
  | setAmplitude hb a => exact hinv hb
  | setDcOffset hb a => exact hinv hb
  | setPhaseOffset hb a =>
    obtain ⟨hrate, hfreq, hinc, -, hrest⟩ := hinv hb
    refine ⟨hrate, hfreq, hinc, ?_, hrest⟩
    rw [phoff_register_toInt]
    exact normalisePhaseOffset_range (s32 a)
  | setWaveformType hb a hw =>
    obtain ⟨hrate, hfreq, hinc, hphoff, -, hrest⟩ := hinv hb
    exact ⟨hrate, hfreq, hinc, hphoff, hw, hrest⟩
  | reset hb =>
    obtain ⟨hrate, hfreq, hinc, hphoff, hwtype, hlfsr, -⟩ := hinv hb
    exact ⟨hrate, hfreq, hinc, hphoff, hwtype, hlfsr, BitVec.isLt _⟩
  | process hb hv => exact Block.advance_legal (hinv hb) _

/-- Settles O49, along what a step can do: an idle edge holds the registers, after `rst` the block is not constructed, and
every write of a command keeps R38. -/
theorem stepKeepsTheInvariant : Obligations.StepKeepsTheInvariant := by
  intro s t hinv hstep
  rcases step_next hstep with ⟨-, rfl⟩ | ⟨rest, -, rfl⟩ | ⟨w, ok, seed, rest, -, hexec⟩
  · exact hinv
  · intro hconstructed
    cases hconstructed
  · obtain ⟨b, r, hwrite, rfl⟩ := exec_next_registerWrite hexec
    exact hwrite.keeps_inv hinv

/-- Settles O48: the invariant speaks of `CONSTRUCTED = 1` alone. -/
theorem resetSatisfiesTheInvariant : Obligations.ResetSatisfiesTheInvariant := by
  intro hconstructed
  cases hconstructed

/-- What every step keeps, every run keeps. -/
theorem core_run_keeps {P : State → Prop} (hstep : ∀ s t, P s → step s = .next t → P t) {k : Nat} {s t : State}
    (hs : P s) (hrun : Host.Core.run core k s = .next t) : P t := by
  induction k generalizing s with
  | zero => cases hrun; exact hs
  | succ k ih =>
    cases h : step s with
    | next s' => exact ih (hstep s s' hs h) (core_run_of_next h ▸ hrun)
    | fault f => cases (core_run_of_fault h).symm.trans hrun
    | refused r => cases (core_run_of_refused h).symm.trans hrun

/-- Settles O50: the host's events are no register, so the invariant holds of the reset state with any of them ahead, and
every run keeps it. -/
theorem reachableConstructedStatesAreLegal : Obligations.ReachableConstructedStatesAreLegal := by
  intro events k t hrun
  have hstart : ({ State.reset with host := events } : State).Inv := resetSatisfiesTheInvariant
  exact core_run_keeps (P := fun s => s.Inv) stepKeepsTheInvariant hstart hrun

/-- Settles O10. -/
theorem stateAfterHardwareReset : Obligations.StateAfterHardwareReset := ⟨rfl, rfl⟩

/-! ## Who writes what -/

/-- `LFSR` moves at the Noise variant alone (42_process.md R164). -/
theorem wtype_of_advance_lfsr_ne {b : Block} {v : WaveformType} (hv : WaveformType.ofBits b.wtype = some v)
    (h : (b.advance v).lfsr ≠ b.lfsr) : b.wtype = 4 := by
  by_cases hnoise : v = .noise
  · rw [(ofBits_eq_some_iff b.wtype v).1 hv, hnoise]
    rfl
  · exact absurd (by rw [Block.advance_lfsr, if_neg hnoise]) h

/-- `CONSTRUCTED` is left as it is, or set by a constructor. -/
theorem RegisterWrite.constructed_eq {i : Instr} {b b' : Block} (h : RegisterWrite i b b') :
    b'.constructed = b.constructed ∨ (i.isConstructor = true ∧ b'.constructed = true) := by
  cases h with
  | construct hi => exact .inr ⟨hi, rfl⟩
  | _ => exact .inl rfl

/-- Settles O54, write by write: each leaves every register but its own. -/
theorem registersHaveOnlyTheirWriters : Obligations.RegistersHaveOnlyTheirWriters := by
  intro i s t hexec
  obtain ⟨b, r, hwrite, rfl⟩ := exec_next_registerWrite hexec
  simp only [State.complete_toBlock, State.complete_seedOk, State.complete_seedIn, State.complete_host,
    State.complete_draws, and_true]
  generalize s.toBlock = old at hwrite ⊢
  cases hwrite with
  | construct hi => simp [hi]
  | process hb hv => simpa [Instr.isConstructor] using wtype_of_advance_lfsr_ne hv
  | _ => simp

/-- Settles O53: an idle edge holds `CONSTRUCTED`, `rst` clears it, and a command that changes it is a constructor, which
sets it. -/
theorem onlyHardwareResetUnconstructs : Obligations.OnlyHardwareResetUnconstructs := by
  intro s t hstep
  rcases step_next hstep with ⟨-, rfl⟩ | ⟨rest, hhost, rfl⟩ | ⟨w, ok, seed, rest, hhost, hexec⟩
  · exact ⟨fun hs ht => absurd (hs.symm.trans ht) (by decide), fun hs ht => absurd (hs.symm.trans ht) (by decide)⟩
  · exact ⟨fun _ _ => ⟨rest, hhost⟩, fun _ ht => by cases ht⟩
  · obtain ⟨b, r, hwrite, rfl⟩ := exec_next_registerWrite hexec
    rcases hwrite.constructed_eq with heq | ⟨hi, hset⟩
    · exact ⟨fun hs ht => absurd (hs.symm.trans (heq.symm.trans ht)) (by decide),
        fun hs ht => absurd (hs.symm.trans (heq.symm.trans ht)) (by decide)⟩
    · exact ⟨fun _ ht => absurd (hset.symm.trans ht) (by decide), fun _ _ => ⟨w, ok, seed, rest, hhost, hi⟩⟩

/-- Settles O57. -/
theorem zeroSampleRateStops : Obligations.ZeroSampleRateStops := by
  intro s a hs hzero
  rw [exec, execSetFrequency]
  exact State.perform_of_fault ((whenConstructed_of_true hs _).trans (if_pos hzero))

/-! ## What a command depends on -/

/-- Systems with one block and one pair of seed inputs: a command completes alike in both, or faults alike. -/
theorem exec_congr (i : Instr) {s s' : State} (hblock : s.toBlock = s'.toBlock) (hok : s.seedOk = s'.seedOk)
    (hin : s.seedIn = s'.seedIn) :
    (∃ b r, exec i s = .next (s.complete b r) ∧ exec i s' = .next (s'.complete b r)) ∨
    (∃ f, exec i s = .fault f ∧ exec i s' = .fault f) := by
  obtain ⟨command, hcommand, -⟩ := exec_eq_perform i
  have hs := hcommand s
  have hs' := hcommand s'
  rw [← hok, ← hin] at hs'
  generalize command (seedValue s.seedOk s.seedIn) = f at hs hs'
  cases hf : f s.toBlock with
  | next c =>
    exact .inl ⟨c.block, c.response, hs.trans (State.perform_of_next hf),
      hs'.trans (State.perform_of_next (hblock ▸ hf))⟩
  | fault r => exact .inr ⟨r, hs.trans (State.perform_of_fault hf), hs'.trans (State.perform_of_fault (hblock ▸ hf))⟩
  | refused r => exact absurd (hs.trans (by simp only [State.perform, hf])) (exec_ne_refused i s r)

/-- Settles O60: a completion replaces the registers and the response, and nothing else, in each system. -/
theorem commandsDependOnTheBlockAndTheSeedInputsAlone : Obligations.CommandsDependOnTheBlockAndTheSeedInputsAlone := by
  intro i s s' hblock hok hin
  refine ⟨fun t ht => ?_, fun f hf => ?_, exec_ne_refused i s⟩
  · rcases exec_congr i hblock hok hin with ⟨b, r, hs, hs'⟩ | ⟨f, hs, -⟩
    · cases ht.symm.trans hs
      exact ⟨r, rfl, rfl, hs'⟩
    · cases ht.symm.trans hs
  · rcases exec_congr i hblock hok hin with ⟨b, r, hs, -⟩ | ⟨f', hs, hs'⟩
    · cases hf.symm.trans hs
    · cases hf.symm.trans hs
      exact hs'

/-! ## Unspecified registers -/

/-- Two systems before construction: alike at the ports and in the draw counter, their data registers whatever they are
(the second case of `State.SameToHost`). -/
def State.AlikeUnconstructed (s s' : State) : Prop :=
  s.constructed = false ∧ s'.constructed = false ∧ s.toPorts = s'.toPorts ∧ s.draws = s'.draws

theorem State.eq_of_parts {s s' : State} (hblock : s.toBlock = s'.toBlock) (hports : s.toPorts = s'.toPorts)
    (hdraws : s.draws = s'.draws) : s = s' := by
  cases s
  cases s'
  cases hblock
  cases hports
  cases hdraws
  rfl

theorem State.sameToHost_iff {s s' : State} : s.SameToHost s' ↔ s = s' ∨ s.AlikeUnconstructed s' := by
  obtain ⟨b, ⟨ok, pin, rsp, host⟩, draws⟩ := s
  obtain ⟨b', ⟨ok', pin', rsp', host'⟩, draws'⟩ := s'
  simp only [State.SameToHost, State.AlikeUnconstructed, Ports.mk.injEq, and_assoc]

theorem outcomesSameToHost_refl (o : Host.Outcome State Fault Refusal) : outcomesSameToHost o o := by
  cases o with
  | next s => exact .inl rfl
  | fault f => rfl
  | refused r => rfl

/-- Any command but a constructor, before construction, is the rejection with code 1 (60_exceptions.md R233). -/
theorem exec_of_unconstructed {i : Instr} {s : State} (hi : i.isConstructor = false) (hs : s.constructed = false) :
    exec i s = .next (s.complete s.toBlock ⟨.errNotConstructed, 0⟩) := by
  unfold exec
  cases i
  case new | newWithType | default => cases hi
  all_goals exact perform_of_unconstructed hs _

/-- A response to both systems leaves them alike where neither system's registers are touched. -/
theorem State.AlikeUnconstructed.complete {s s' : State} (h : s.AlikeUnconstructed s') (r : Response) :
    (s.complete s.toBlock r).AlikeUnconstructed (s'.complete s'.toBlock r) := by
  obtain ⟨hs, hs', hports, hdraws⟩ := h
  exact ⟨hs, hs', congrArg (fun p : Ports => { p with rsp := some r }) hports, hdraws⟩

/-- Systems with equal ports and counters are one system once a command has put the same registers in both. -/
theorem State.complete_eq_complete {s s' : State} (hports : s.toPorts = s'.toPorts) (hdraws : s.draws = s'.draws)
    (b : Block) (r : Response) : s.complete b r = s'.complete b r :=
  State.eq_of_parts rfl (congrArg (fun p : Ports => { p with rsp := some r }) hports) hdraws

/-- A command before construction: a rejection leaves the systems alike, a construction makes them one, since it writes
every register (10_state.md R37). -/
theorem exec_alikeUnconstructed (i : Instr) {s s' : State} (h : s.AlikeUnconstructed s') :
    ∃ t t', exec i s = .next t ∧ exec i s' = .next t' ∧ (t = t' ∨ t.AlikeUnconstructed t') := by
  have ⟨hs, hs', hports, hdraws⟩ := h
  cases hi : i.isConstructor with
  | false => exact ⟨_, _, exec_of_unconstructed hi hs, exec_of_unconstructed hi hs', .inr (h.complete _)⟩
  | true =>
    rcases exec_of_constructor hi with ⟨cause, hreject⟩ | ⟨rate, f, w, -, -, hconstruct⟩
    · exact ⟨_, _, hreject s, hreject s', .inr (h.complete _)⟩
    · have hok : s.seedOk = s'.seedOk := congrArg Ports.seedOk hports
      have hin : s.seedIn = s'.seedIn := congrArg Ports.seedIn hports
      refine ⟨_, _, hconstruct s, hconstruct s', .inl ?_⟩
      rw [hok, hin]
      exact State.complete_eq_complete hports hdraws _ _

/-- One step before construction: both systems go on, and a host cannot tell them apart after it. -/
theorem step_alikeUnconstructed {s s' : State} (h : s.AlikeUnconstructed s') :
    ∃ t t', step s = .next t ∧ step s' = .next t' ∧ (t = t' ∨ t.AlikeUnconstructed t') := by
  obtain ⟨hs, hs', hports, hdraws⟩ := h
  have hhost : s.host = s'.host := congrArg Ports.host hports
  cases hevents : s.host with
  | nil =>
    exact ⟨_, _, step_of_nothing hevents, step_of_nothing (hhost ▸ hevents),
      .inr ⟨hs, hs', congrArg (fun p : Ports => { p with rsp := none }) hports, hdraws⟩⟩
  | cons event rest =>
    cases event with
    | hardwareReset =>
      refine ⟨_, _, step_of_hardwareReset hevents, step_of_hardwareReset (hhost ▸ hevents), .inl ?_⟩
      exact State.eq_of_parts (congrArg Block.afterHardwareReset hdraws)
        (congrArg (fun p : Ports => { p with rsp := none, host := rest }) hports) (congrArg (· + 1) hdraws)
    | command word ok pin =>
      rw [step_of_command hevents, step_of_command (hhost ▸ hevents)]
      exact exec_alikeUnconstructed (decode word) ⟨hs, hs',
        congrArg (fun p : Ports => { p with seedOk := ok, seedIn := pin, host := rest }) hports, hdraws⟩

/-- Settles O52, by induction on the number of steps: equal systems run alike, and one step takes two alike unconstructed
systems to such a pair again. -/
theorem unspecifiedRegistersAreNeverObserved : Obligations.UnspecifiedRegistersAreNeverObserved := by
  intro s s' k hsame
  induction k generalizing s s' with
  | zero => exact hsame
  | succ k ih =>
    rcases State.sameToHost_iff.1 hsame with rfl | halike
    · exact outcomesSameToHost_refl _
    · obtain ⟨t, t', hstep, hstep', hnext⟩ := step_alikeUnconstructed halike
      rw [core_run_of_next hstep, core_run_of_next hstep']
      exact ih t t' (State.sameToHost_iff.2 hnext)

end Sys2Proof.Machine

namespace Sys2Proof.Machine

/-! # Parameter registers: a getter answers what the setter stored (20_memory.md R58) -/

/-! ## A response holds the register's value -/

theorem sext64_register_toInt {n : Nat} (hn : n ≤ 64) (v : BitVec n) : (sext64 v.toInt).toInt = v.toInt := by
  rw [sext64_register, BitVec.toInt_signExtend_of_le hn]

theorem zext64_toInt {x : Nat} (h : x < 2 ^ 63) : (zext64 x).toInt = x := by
  rw [zext64, BitVec.toInt_ofNat', Int.bmod_eq_of_le (by omega) (by omega)]

/-! ## The setters at a constructed block -/

section
variable {s : State} (hs : s.constructed = true) (a : Word)
include hs

theorem exec_setAmplitude_of_constructed :
    exec (.setAmplitude a) s = .next (s.complete { s.toBlock with amp := a } ⟨.ok, 0⟩) :=
  perform_of_constructed hs (fun b => { b with amp := a }) fun _ => 0

theorem exec_setDcOffset_of_constructed :
    exec (.setDcOffset a) s = .next (s.complete { s.toBlock with dc := a } ⟨.ok, 0⟩) :=
  perform_of_constructed hs (fun b => { b with dc := a }) fun _ => 0

theorem exec_setPhaseOffset_of_constructed :
    exec (.setPhaseOffset a) s =
      .next (s.complete { s.toBlock with phoff := BitVec.ofInt 26 (normalisePhaseOffset (s32 a)) } ⟨.ok, 0⟩) :=
  perform_of_constructed hs (fun b => { b with phoff := BitVec.ofInt 26 (normalisePhaseOffset (s32 a)) }) fun _ => 0

theorem exec_setFrequency_of_constructed (hrate : s.sampleRate ≠ 0) :
    exec (.setFrequency a) s = .next (s.complete (s.tune (s32 a)) ⟨.ok, 0⟩) :=
  show execSetFrequency a s = _ from State.perform_of_next ((whenConstructed_of_true hs _).trans (if_neg hrate))

theorem exec_setWaveformType_of_constructed {a : Word} (ha : a.toNat ≤ 4) :
    ∃ w : BitVec 3, w.toNat = a.toNat ∧
      exec (.setWaveformType a) s = .next (s.complete { s.toBlock with wtype := w } ⟨.ok, 0⟩) := by
  rcases readDiscriminant_spec a with ⟨-, hbig⟩ | ⟨w, hd, hw, -⟩
  · omega
  · refine ⟨w, hw, show execSetWaveformType a s = _ from State.perform_of_next ?_⟩
    rw [whenConstructed_of_true hs, hd]
    rfl

end

/-! ## The getters -/

/-- Command `get` reads `d`: at every constructed block it answers `d` of the registers and writes none of them. -/
def Reads (get : Instr) (d : Block → Data) : Prop :=
  ∀ s : State, s.constructed = true → exec get s = .next (s.complete s.toBlock ⟨.ok, d s.toBlock⟩)

theorem reads_of_exec_eq {get : Instr} {d : Block → Data}
    (h : ∀ s, exec get s = s.perform fun b => whenConstructed b (answer b (d b))) : Reads get d :=
  fun s hs => (h s).trans (perform_of_constructed hs (fun b => b) d)

theorem getFrequency_reads : Reads .getFrequency fun b => zext64 b.freq.toNat :=
  reads_of_exec_eq fun _ => rfl

theorem getAmplitude_reads : Reads .getAmplitude fun b => sext64 b.amp.toInt :=
  reads_of_exec_eq fun _ => rfl

theorem getDcOffset_reads : Reads .getDcOffset fun b => sext64 b.dc.toInt :=
  reads_of_exec_eq fun _ => rfl

theorem getPhaseOffset_reads : Reads .getPhaseOffset fun b => sext64 b.phoff.toInt :=
  reads_of_exec_eq fun _ => rfl

theorem getWaveformType_reads : Reads .getWaveformType fun b => zext64 b.wtype.toNat :=
  reads_of_exec_eq fun _ => rfl

/-! ## A setter, then a getter -/

@[simp] theorem State.complete_complete (s : State) (b b' : Block) (r r' : Response) :
    (s.complete b r).complete b' r' = s.complete b' r' := rfl

/-- The getter reads the registers as the command before it left them, and leaves them so. -/
theorem execAll_pair_of_reads {i get : Instr} {d : Block → Data} {s : State} {b : Block} {r : Response}
    (hget : Reads get d) (hi : exec i s = .next (s.complete b r)) (hb : b.constructed = true) :
    execAll [i, get] s = .next (s.complete b ⟨.ok, d b⟩) := by
  have hread : exec get (s.complete b r) = .next (s.complete b ⟨.ok, d b⟩) := by
    simpa using hget (s.complete b r) hb
  rw [execAll_cons hi, execAll_cons hread, execAll_nil]

/-- Settles O28: each setter's write, then its getter's reading of that register. -/
theorem setThenGetAnswersWhatWasStored : Obligations.SetThenGetAnswersWhatWasStored := by
  intro s a hs
  refine ⟨?amplitude, ?dcOffset, ?phaseOffset, ?frequency, ?waveformType⟩
  case amplitude =>
    exact ⟨_, execAll_pair_of_reads getAmplitude_reads (exec_setAmplitude_of_constructed hs a) hs,
      by rw [State.complete_rsp, sext64_register]⟩
  case dcOffset =>
    exact ⟨_, execAll_pair_of_reads getDcOffset_reads (exec_setDcOffset_of_constructed hs a) hs,
      by rw [State.complete_rsp, sext64_register]⟩
  case phaseOffset =>
    exact ⟨_, _, execAll_pair_of_reads getPhaseOffset_reads (exec_setPhaseOffset_of_constructed hs a) hs, rfl,
      by rw [sext64_register_toInt (by omega), phoff_register_toInt, normalisePhaseOffset_eq, s32]⟩
  case frequency =>
    intro hrate
    exact ⟨_, _, execAll_pair_of_reads getFrequency_reads (exec_setFrequency_of_constructed hs a hrate) hs, rfl,
      by rw [zext64_toInt (by omega), (Block.tune_spec _ _).1, s32]⟩
  case waveformType =>
    intro ha
    obtain ⟨w, hw, hset⟩ := exec_setWaveformType_of_constructed hs ha
    exact ⟨_, execAll_pair_of_reads getWaveformType_reads hset hs, by rw [State.complete_rsp, hw, zext64_register]⟩

end Sys2Proof.Machine

namespace Sys2Proof

/-! # The command word: its fields, its decoding and its encoding (30_encoding.md R71, R72, R74, R79) -/

/-! ## The packed word and its fields -/

theorem toNat_append_eq_add {m n : Nat} (x : BitVec m) (y : BitVec n) :
    (x ++ y).toNat = x.toNat * 2 ^ n + y.toNat := by
  rw [BitVec.toNat_append, ← Nat.shiftLeft_add_eq_or_of_lt y.isLt, Nat.shiftLeft_eq]

theorem packCmd_toNat (op : BitVec 4) (c b a : Word) :
    (packCmd op c b a).toNat = op.toNat * 2 ^ 96 + c.toNat * 2 ^ 64 + b.toNat * 2 ^ 32 + a.toNat := by
  simp only [packCmd, toNat_append_eq_add]
  omega

/-! Each field is a digit of the word's number. -/

theorem fieldOp_toNat (w : CmdWord) : (fieldOp w).toNat = w.toNat / 2 ^ 96 := by
  have hw := w.isLt
  rw [fieldOp, BitVec.extractLsb'_toNat, Nat.shiftRight_eq_div_pow]
  exact Nat.mod_eq_of_lt (by omega)

theorem fieldC_toNat (w : CmdWord) : (fieldC w).toNat = w.toNat / 2 ^ 64 % 2 ^ 32 := by
  rw [fieldC, BitVec.extractLsb'_toNat, Nat.shiftRight_eq_div_pow]

theorem fieldB_toNat (w : CmdWord) : (fieldB w).toNat = w.toNat / 2 ^ 32 % 2 ^ 32 := by
  rw [fieldB, BitVec.extractLsb'_toNat, Nat.shiftRight_eq_div_pow]

theorem fieldA_toNat (w : CmdWord) : (fieldA w).toNat = w.toNat % 2 ^ 32 := by
  rw [fieldA, BitVec.extractLsb'_toNat, Nat.shiftRight_zero]

@[simp] theorem fieldC_packCmd (op : BitVec 4) (c b a : Word) : fieldC (packCmd op c b a) = c := by
  apply BitVec.eq_of_toNat_eq
  rw [fieldC_toNat, packCmd_toNat]
  omega

@[simp] theorem fieldB_packCmd (op : BitVec 4) (c b a : Word) : fieldB (packCmd op c b a) = b := by
  apply BitVec.eq_of_toNat_eq
  rw [fieldB_toNat, packCmd_toNat]
  omega

@[simp] theorem fieldA_packCmd (op : BitVec 4) (c b a : Word) : fieldA (packCmd op c b a) = a := by
  apply BitVec.eq_of_toNat_eq
  rw [fieldA_toNat, packCmd_toNat]
  omega

theorem packCmd_fields (w : CmdWord) : packCmd (fieldOp w) (fieldC w) (fieldB w) (fieldA w) = w := by
  apply BitVec.eq_of_toNat_eq
  rw [packCmd_toNat, fieldOp_toNat, fieldC_toNat, fieldB_toNat, fieldA_toNat]
  omega

/-- Settles O4, by the number of the packed word, of which the fields are the digits. -/
theorem packedWordIsOpCBA : Obligations.PackedWordIsOpCBA :=
  ⟨fun op c b a => ⟨packCmd_toNat op c b a, Laws.fieldOp_packCmd op c b a, fieldC_packCmd op c b a,
    fieldB_packCmd op c b a, fieldA_packCmd op c b a⟩, packCmd_fields⟩

/-! ## Opcodes and their numbers -/

@[simp] theorem Opcode.ofBits_bits (op : Opcode) : Opcode.ofBits op.bits = op := by
  cases op <;> rfl

@[simp] theorem Opcode.bits_ofBits (v : BitVec 4) : (Opcode.ofBits v).bits = v := by
  revert v
  decide

/-- The rows of R72's table whose command uses operand `a`, `b` and `c`, by number. -/
theorem Opcode.uses_iff (v : BitVec 4) :
    (0 < (Opcode.ofBits v).readings.length ↔ v.toNat ∈ [2, 3, 5, 6, 7, 8, 9]) ∧
    (1 < (Opcode.ofBits v).readings.length ↔ v.toNat ∈ [2, 3]) ∧
    (2 < (Opcode.ofBits v).readings.length ↔ v.toNat = 3) := by
  revert v
  decide

/-! ## A command and its operand fields -/

/-- What operand field `k` holds where a command is encoded: `v` where its command uses the field, and 0 where not. -/
def Opcode.field (op : Opcode) (k : Nat) (v : Word) : Word := if k < op.readings.length then v else 0

/-- A command is built from the fields it uses alone (30_encoding.md R74). -/
theorem Opcode.instr_congr {op : Opcode} {a b c a' b' c' : Word} (ha : 0 < op.readings.length → a = a')
    (hb : 1 < op.readings.length → b = b') (hc : 2 < op.readings.length → c = c') :
    op.instr c b a = op.instr c' b' a' := by
  cases op
  case new => rw [Opcode.instr, Opcode.instr, ha (by decide), hb (by decide)]
  case newWithType => rw [Opcode.instr, Opcode.instr, ha (by decide), hb (by decide), hc (by decide)]
  case setFrequency | setAmplitude | setDcOffset | setPhaseOffset | setWaveformType =>
    rw [Opcode.instr, Opcode.instr, ha (by decide)]
  all_goals rfl

/-- Every command is its opcode's, with some operand fields. -/
theorem Instr.exists_eq_instr (i : Instr) : ∃ (op : Opcode) (c b a : Word), i = op.instr c b a := by
  suffices h : ∃ c b a : Word, i = i.opcode.instr c b a from ⟨i.opcode, h⟩
  cases i
  case new a b => exact ⟨0, b, a, rfl⟩
  case newWithType a b c => exact ⟨c, b, a, rfl⟩
  case setFrequency a | setAmplitude a | setDcOffset a | setPhaseOffset a | setWaveformType a => exact ⟨0, 0, a, rfl⟩
  all_goals exact ⟨0, 0, 0, rfl⟩

@[simp] theorem Opcode.opcode_instr (op : Opcode) (c b a : Word) : (op.instr c b a).opcode = op := by
  cases op <;> rfl

@[simp] theorem Opcode.isConstructor_instr (op : Opcode) (c b a : Word) :
    (op.instr c b a).isConstructor = op.isConstructor := by
  cases op <;> rfl

/-! ## The decoder and the encoder -/

theorem decode_packCmd (v : BitVec 4) (c b a : Word) : decode (packCmd v c b a) = (Opcode.ofBits v).instr c b a := by
  rw [decode, Laws.fieldOp_packCmd, fieldC_packCmd, fieldB_packCmd, fieldA_packCmd]

theorem decode_packCmd_bits (op : Opcode) (c b a : Word) : decode (packCmd op.bits c b a) = op.instr c b a := by
  rw [decode_packCmd, Opcode.ofBits_bits]

/-- The encoder writes the command's number, the fields the command uses, and 0 elsewhere (30_encoding.md R81). -/
theorem encode_instr (op : Opcode) (c b a : Word) :
    encode (op.instr c b a) = packCmd op.bits (op.field 2 c) (op.field 1 b) (op.field 0 a) := by
  cases op <;> rfl

theorem decode_encode (i : Instr) : decode (encode i) = i := by
  obtain ⟨op, c, b, a, rfl⟩ := i.exists_eq_instr
  rw [encode_instr, decode_packCmd_bits]
  exact Opcode.instr_congr (fun h => if_pos h) (fun h => if_pos h) (fun h => if_pos h)

theorem encode_decode (w : CmdWord) :
    encode (decode w) =
      packCmd (fieldOp w) ((Opcode.ofBits (fieldOp w)).field 2 (fieldC w)) ((Opcode.ofBits (fieldOp w)).field 1 (fieldB w))
        ((Opcode.ofBits (fieldOp w)).field 0 (fieldA w)) := by
  rw [decode, encode_instr, Opcode.bits_ofBits]

/-- A table word of at least the command's width loses no bit of the command. -/
theorem toNat_mod_of_width_le (w : CmdWord) {nbits : Nat} (h : 100 ≤ nbits) : w.toNat % 2 ^ nbits = w.toNat :=
  Nat.mod_eq_of_lt (w.isLt.trans_le (Nat.pow_le_pow_right (by omega) h))

theorem decodeTableWord_toNat (w : CmdWord) {nbits : Nat} (h : 100 ≤ nbits) :
    decodeTableWord nbits w.toNat = some (decode w) := by
  have hwell : packedWellFormed w.toNat = true := decide_eq_true w.isLt
  simp only [decodeTableWord, toNat_mod_of_width_le w h, decodePacked, if_pos hwell, BitVec.ofNat_toNat, BitVec.setWidth_eq]

/-- Settles O1: the encoder keeps the fields that the command is built from, and a table word carries the whole word. -/
theorem decodeOfEncodeIsIdentity : Obligations.DecodeOfEncodeIsIdentity := by
  intro i
  refine ⟨decode_encode i, fun nbits hbits => ?_⟩
  rw [decodeTableWord_toNat _ hbits, decode_encode]

/-- Settles O2: the fields of the packed word that `encode_decode` gives. -/
theorem encodeOfDecodeKeepsUsedFields : Obligations.EncodeOfDecodeKeepsUsedFields := by
  intro w
  obtain ⟨ha, hb, hc⟩ := Opcode.uses_iff (fieldOp w)
  rw [encode_decode, Laws.fieldOp_packCmd, fieldA_packCmd, fieldB_packCmd, fieldC_packCmd]
  simp only [Opcode.field, ha, hb, hc, and_self]

/-- Settles O3: words that agree in the used fields decode to one command. -/
theorem unusedOperandFieldsAreIgnored : Obligations.UnusedOperandFieldsAreIgnored := by
  refine ⟨fun op a b c a' b' c' ha hb hc s => ?_, fun a b c => decode_packCmd 0 c b a⟩
  obtain ⟨hua, hub, huc⟩ := Opcode.uses_iff op
  have hsame : decode (packCmd op c b a) = decode (packCmd op c' b' a') := by
    rw [decode_packCmd, decode_packCmd]
    exact Opcode.instr_congr (fun h => ha (hua.1 h)) (fun h => hb (hub.1 h)) (fun h => hc (huc.1 h))
  rw [hsame]

/-- Settles O5, by evaluation of the decoder at the six words. -/
theorem decoderReadsSpecWords : Obligations.DecoderReadsSpecWords := by
  refine ⟨?_, ?_, ?_, ?_, ?_, ?_⟩ <;> decide

end Sys2Proof

namespace Sys2Proof.Machine

/-- Settles O7: the word placed is the encoded one, and its acceptance restores the state it was placed in. -/
theorem fetchWordRunsTheInstruction : Obligations.FetchWordRunsTheInstruction := by
  intro s i nbits hbits
  have hhost : (s.withFetchWord nbits (encode i).toNat).host = .command (encode i) s.seedOk s.seedIn :: s.host := by
    rw [State.withFetchWord_host, toNat_mod_of_width_le _ hbits, BitVec.ofNat_toNat, BitVec.setWidth_eq]
  calc step (s.withFetchWord nbits (encode i).toNat)
      = exec (decode (encode i)) ((s.withFetchWord nbits (encode i).toNat).accept s.seedOk s.seedIn s.host) :=
        step_of_command hhost
    _ = exec i s := by rw [decode_encode]; rfl

end Sys2Proof.Machine

namespace Sys2Proof.Machine

/-! # Text: what a well-formed line assembles to (30_encoding.md R81) -/

theorem wellFormed_iff (l : CmdLine) :
    l.wellFormed = true ↔
      l.operands.length = l.op.readings.length ∧ l.signsOk = true ∧ l.operandsFit = true ∧ l.notePlaceOk = true ∧
        l.noteValueOk = true := by
  simp only [CmdLine.wellFormed, CmdLine.operandCountOk, Bool.and_eq_true, beq_iff_eq, and_assoc]

theorem assemble_of_wellFormed {l : CmdLine} (h : l.wellFormed = true) :
    assemble l = some (packCmd l.op.bits (operandWord l 2) (operandWord l 1) (operandWord l 0)) := if_pos h

theorem assemble_of_illFormed {l : CmdLine} (h : l.wellFormed = false) : assemble l = none :=
  if_neg (by rw [h]; decide)

theorem operandWord_of_written {l : CmdLine} {k : Nat} {v : Literal} (h : l.operands[k]? = some v) :
    operandWord l k = literalWord v := by
  simp only [operandWord, h]

theorem operandWord_of_unwritten {l : CmdLine} {k : Nat} (h : l.operands.length ≤ k) : operandWord l k = 0 := by
  simp only [operandWord, List.getElem?_eq_none h]

theorem literalWord_decimal_toNat {n : Nat} (h : n < 2 ^ 32) : (literalWord (.decimal n)).toNat = n :=
  (BitVec.toNat_ofNat n 32).trans (Nat.mod_eq_of_lt h)

/-- A hexadecimal literal is the decimal one of its value. -/
theorem literalWord_hexadecimal (n : Nat) : literalWord (.hexadecimal n) = literalWord (.decimal n) := rfl

/-- A negative decimal down to -2^31 is not cut off by the 32 bits of its pattern. -/
theorem literalWord_negative_toInt {n : Nat} (h : n ≤ 2 ^ 31) : (literalWord (.negative n)).toInt = -(n : Int) :=
  BitVec.toInt_ofInt_eq_self (by decide) (by omega) (by omega)

/-- Settles O58: the fields of the packed word, its decoding, and the patterns of the literals. -/
theorem assembledLineDecodesToItsCommand : Obligations.AssembledLineDecodesToItsCommand := by
  refine ⟨fun l hl => ?word, fun l k => ⟨fun _ => operandWord_of_written, operandWord_of_unwritten⟩,
    fun l => assemble_of_illFormed, fun n hn => ?pattern, fun n => literalWord_negative_toInt⟩
  case word =>
    obtain ⟨hcount, -⟩ := (wellFormed_iff l).1 hl
    refine ⟨_, assemble_of_wellFormed hl, Laws.fieldOp_packCmd _ _ _ _, fieldA_packCmd _ _ _ _, fieldB_packCmd _ _ _ _,
      fieldC_packCmd _ _ _ _, hcount, decode_packCmd_bits _ _ _ _, ?_⟩
    rw [decode_packCmd_bits, Opcode.opcode_instr]
  case pattern =>
    rw [literalWord_hexadecimal]
    exact ⟨literalWord_decimal_toNat hn, literalWord_decimal_toNat hn⟩

/-- Settles O59: the event of a line, note by note; a well-formed line has a note at a constructor alone. -/
theorem seedAnnotationFixesTheSeedPort : Obligations.SeedAnnotationFixesTheSeedPort := by
  intro l pinOk pinIn hl
  obtain ⟨-, -, -, hplace, -⟩ := (wellFormed_iff l).1 hl
  have hword := assemble_of_wellFormed hl
  refine ⟨_, hword, ?_⟩
  rw [decode_packCmd_bits, Opcode.isConstructor_instr]
  unfold CmdLine.notePlaceOk at hplace
  cases hnote : l.note with
  | absent => simp [lineEvent, hword, hnote]
  | seed v => simpa [lineEvent, hword, hnote] using hplace
  | noseed => simpa [lineEvent, hword, hnote] using hplace

end Sys2Proof.Machine

namespace Sys2Proof.Machine

/-! # Commands: their answers, equivalent constructions, and the seed port (30_encoding.md R75, R78, R82) -/

/-! ## The sample fits the 33 bits of `OUT` -/

/-- Interpolation stays between the two entries, so it does not leave the table's range. -/
theorem sineInterpolate_le {m : Nat} (h : m ≤ 2 ^ 30) : sineInterpolate m ≤ 65536 := by
  rcases h.eq_or_lt with rfl | hlt
  · exact sineInterpolate_quarter.le
  · have hlow : romRead (m / 2 ^ 22) ≤ 65536 := romRead_le (by omega)
    have hhigh : romRead (m / 2 ^ 22 + 1) ≤ 65536 := romRead_le (by omega)
    have hpart (d : Nat) : d * (m / 2 ^ 6 % 2 ^ 16) / 2 ^ 16 ≤ d :=
      Nat.div_le_of_le_mul (by rw [mul_comm]; exact Nat.mul_le_mul_right d (Nat.mod_lt _ (by decide)).le)
    have hstep := hpart (romRead (m / 2 ^ 22 + 1) - romRead (m / 2 ^ 22))
    rw [sineInterpolate_of_lt hlt]
    omega

/-- Every shape value lies between -1 and 1 in units of 1/65536. -/
theorem shape_range (v : WaveformType) (phase lfsr : Word) :
    -65536 ≤ shape v phase lfsr ∧ shape v phase lfsr ≤ 65536 := by
  obtain ⟨-, hramp⟩ := rampPhase_eq phase
  cases v with
  | sine =>
    have hle := sineInterpolate_le (sineFold_le phase)
    rw [shape]
    rcases sineShape_cases phase with ⟨-, hs⟩ | ⟨-, hs⟩ <;> rw [hs] <;> omega
  | square =>
    rw [shape, squareShape]
    split <;> omega
  | triangle =>
    rw [shape, triangleShape]
    split <;> omega
  | sawtooth =>
    rw [shape, sawtoothShape]
    omega
  | noise => exact ⟨BitVec.le_toInt _, (BitVec.toInt_lt).le⟩

theorem Block.sample_eq (b : Block) (v : WaveformType) :
    b.sample v = b.dc.toInt + shape v b.phase b.lfsr * b.amp.toInt / 65536 := rfl

/-- A shape value of at most one scales the amplitude down, and the offset takes one bit more. -/
theorem Block.sample_range (b : Block) (v : WaveformType) : -2 ^ 32 ≤ b.sample v ∧ b.sample v < 2 ^ 32 := by
  obtain ⟨hlo, hhi⟩ := shape_range v b.phase b.lfsr
  have hamp := b.amp.le_toInt
  have hamp' := b.amp.toInt_lt
  have hdc := b.dc.le_toInt
  have hdc' := b.dc.toInt_lt
  have hproduct : |shape v b.phase b.lfsr * b.amp.toInt| ≤ 65536 * 2 ^ 31 := by
    rw [abs_mul]
    exact mul_le_mul (abs_le.2 ⟨hlo, hhi⟩) (abs_le.2 ⟨by omega, by omega⟩) (abs_nonneg _) (by decide)
  have := abs_le.1 hproduct
  rw [Block.sample_eq]
  omega

/-- The response of `PROCESS` is the 33-bit `OUT`, sign-extended. -/
theorem Block.sample_out (b : Block) (v : WaveformType) :
    ∃ out : BitVec 33, out.toInt = b.sample v ∧ sext64 (b.sample v) = out.signExtend 64 := by
  obtain ⟨hlo, hhi⟩ := b.sample_range v
  have hout : (BitVec.ofInt 33 (b.sample v)).toInt = b.sample v := BitVec.toInt_ofInt_eq_self (by decide) hlo hhi
  exact ⟨_, hout, by rw [← sext64_register, hout]⟩

/-! ## The data of a response -/

/-- The data that an executed command answers from the registers before it (30_encoding.md R75). -/
inductive RowData : Instr → Block → Data → Prop
  | process {b : Block} {v : WaveformType} (hv : WaveformType.ofBits b.wtype = some v) :
      RowData .process b (sext64 (b.sample v))
  | getAmplitude (b : Block) : RowData .getAmplitude b (sext64 b.amp.toInt)
  | getDcOffset (b : Block) : RowData .getDcOffset b (sext64 b.dc.toInt)
  | getPhaseOffset (b : Block) : RowData .getPhaseOffset b (sext64 b.phoff.toInt)
  | getFrequency (b : Block) : RowData .getFrequency b (zext64 b.freq.toNat)
  | getWaveformType (b : Block) : RowData .getWaveformType b (zext64 b.wtype.toNat)
  | getWaveformName {b : Block} {v : WaveformType} (hv : WaveformType.ofBits b.wtype = some v) :
      RowData .getWaveformName b (packName (nameBytes v))
  | silent {i : Instr} (hi : i ∉ [.process, .getAmplitude, .getDcOffset, .getPhaseOffset, .getFrequency, .getWaveformType,
      .getWaveformName]) (b : Block) : RowData i b 0

/-- A response of command `i` at registers `b`: a rejection without data, or `OK` with the data of the command's row. -/
def RowResponse (i : Instr) (b : Block) (r : Response) : Prop :=
  (r.status ≠ .ok ∧ r.data = 0) ∨ (r.status = .ok ∧ RowData i b r.data)

theorem rowResponse_reject (i : Instr) (b : Block) {cause : Status} (h : cause ≠ .ok) : RowResponse i b ⟨cause, 0⟩ :=
  .inl ⟨h, rfl⟩

theorem rowResponse_ok {i : Instr} {b : Block} {d : Data} (h : RowData i b d) : RowResponse i b ⟨.ok, d⟩ := .inr ⟨rfl, h⟩

/-- The response of a guarded command with a plain answer. -/
theorem rowResponse_of_guarded {i : Instr} {s t : State} {b : Block} {d : Data}
    (h : (s.constructed = false ∧ t = s.complete s.toBlock ⟨.errNotConstructed, 0⟩) ∨
      (s.constructed = true ∧ t = s.complete b ⟨.ok, d⟩))
    (hdata : RowData i s.toBlock d) : ∃ r, t.rsp = some r ∧ RowResponse i s.toBlock r := by
  rcases h with ⟨-, rfl⟩ | ⟨-, rfl⟩
  · exact ⟨_, rfl, rowResponse_reject i _ (by decide)⟩
  · exact ⟨_, rfl, rowResponse_ok hdata⟩

/-- Said once for all sixteen commands: one that answers a next state has put a response of its row at the port. -/
theorem exec_next_rowResponse {i : Instr} {s t : State} (h : exec i s = .next t) :
    ∃ r, t.rsp = some r ∧ RowResponse i s.toBlock r := by
  cases i with
  | process =>
    rcases execProcess_next h with ⟨-, rfl⟩ | ⟨-, v, hv, rfl⟩
    · exact ⟨_, rfl, rowResponse_reject _ _ (by decide)⟩
    · exact ⟨_, rfl, rowResponse_ok (.process hv)⟩
  | getWaveformName =>
    rcases execGetWaveformName_next h with ⟨-, rfl⟩ | ⟨-, v, hv, rfl⟩
    · exact ⟨_, rfl, rowResponse_reject _ _ (by decide)⟩
    · exact ⟨_, rfl, rowResponse_ok (.getWaveformName hv)⟩
  | new a b =>
    rcases execNew_next h with ⟨-, rfl⟩ | ⟨rate, -, -, -, rfl⟩
    · exact ⟨_, rfl, rowResponse_reject _ _ (by decide)⟩
    · exact ⟨_, rfl, rowResponse_ok (.silent (by simp) _)⟩
  | newWithType a b c =>
    rcases execNewWithType_next h with ⟨-, rfl⟩ | ⟨-, -, rfl⟩ | ⟨rate, w, -, -, -, -, -, rfl⟩
    · exact ⟨_, rfl, rowResponse_reject _ _ (by decide)⟩
    · exact ⟨_, rfl, rowResponse_reject _ _ (by decide)⟩
    · exact ⟨_, rfl, rowResponse_ok (.silent (by simp) _)⟩
  | default =>
    rw [execDefault_next h]
    exact ⟨_, rfl, rowResponse_ok (.silent (by simp) _)⟩
  | setFrequency a =>
    exact rowResponse_of_guarded ((execSetFrequency_next h).imp_right fun ⟨hs, _, ht⟩ => ⟨hs, ht⟩) (.silent (by simp) _)
  | setWaveformType a =>
    rcases execSetWaveformType_next h with ⟨-, rfl⟩ | ⟨-, -, rfl⟩ | ⟨-, w, -, -, rfl⟩
    · exact ⟨_, rfl, rowResponse_reject _ _ (by decide)⟩
    · exact ⟨_, rfl, rowResponse_reject _ _ (by decide)⟩
    · exact ⟨_, rfl, rowResponse_ok (.silent (by simp) _)⟩
  | reset => exact rowResponse_of_guarded (execReset_next h) (.silent (by simp) _)
  | setAmplitude a => exact rowResponse_of_guarded (execSetAmplitude_next h) (.silent (by simp) _)
  | setDcOffset a => exact rowResponse_of_guarded (execSetDcOffset_next h) (.silent (by simp) _)
  | setPhaseOffset a => exact rowResponse_of_guarded (execSetPhaseOffset_next h) (.silent (by simp) _)
  | getFrequency => exact rowResponse_of_guarded (execGetFrequency_next h) (.getFrequency _)
  | getAmplitude => exact rowResponse_of_guarded (execGetAmplitude_next h) (.getAmplitude _)
  | getDcOffset => exact rowResponse_of_guarded (execGetDcOffset_next h) (.getDcOffset _)
  | getPhaseOffset => exact rowResponse_of_guarded (execGetPhaseOffset_next h) (.getPhaseOffset _)
  | getWaveformType => exact rowResponse_of_guarded (execGetWaveformType_next h) (.getWaveformType _)

/-- Settles O14, along the two kinds of response: a rejection has no data, and the data of an executed command is its
row's, which for `PROCESS` is a 33-bit sample. -/
theorem everyCommandAnswersOnce : Obligations.EveryCommandAnswersOnce := by
  intro i s t hexec
  obtain ⟨⟨st, d⟩, hrsp, ⟨hne, (hzero : d = 0)⟩ | ⟨hok, (hdata : RowData i s.toBlock d)⟩⟩ :=
    exec_next_rowResponse hexec
  · exact ⟨st, d, hrsp, fun _ => hzero, fun hok => absurd hok hne⟩
  refine ⟨st, d, hrsp, fun hne => absurd hok hne, fun _ => ?_⟩
  cases hdata with
  | process hv =>
    obtain ⟨out, hout, hext⟩ := s.sample_out _
    exact ⟨fun _ => ⟨_, out, hv, hout, hext⟩, by simp⟩
  | getWaveformName hv => simp [hv]
  | silent hi =>
    simp only [List.mem_cons, List.not_mem_nil, or_false, not_or] at hi
    simp [hi]
  | getFrequency | getWaveformType => simp [zext64_register]
  | getAmplitude | getDcOffset | getPhaseOffset => simp [sext64_register]

/-! ## Equivalent constructions -/

theorem exec_new_of_read {a : Word} {rate : BitVec 24} (hrate : readSampleRate a = some rate) (b : Word) (s : State) :
    exec (.new a b) s =
      .next (s.complete (s.construct rate (s32 b) (seedValue s.seedOk s.seedIn)) ⟨.ok, 0⟩) :=
  show execNew a b s = _ from State.perform_of_next (by rw [hrate]; rfl)

theorem exec_newWithType_of_read {a c : Word} {rate : BitVec 24} {w : BitVec 3} (hrate : readSampleRate a = some rate)
    (hw : readDiscriminant c = some w) (b : Word) (s : State) :
    exec (.newWithType a b c) s =
      .next (s.complete { s.construct rate (s32 b) (seedValue s.seedOk s.seedIn) with wtype := w } ⟨.ok, 0⟩) :=
  show execNewWithType a b c s = _ from State.perform_of_next (by rw [hw, hrate]; rfl)

/-- Settles O18: (a) the operands 44100 and 112640 are read as the parameters of `DEFAULT`; (b) `SET_WAVEFORM_TYPE` writes,
after `NEW`, the discriminant that `NEW_WITH_TYPE` writes at once. -/
theorem constructorEquivalences : Obligations.ConstructorEquivalences := by
  refine ⟨fun s => ?default, fun s a b c hc ha ha' => ?withType⟩
  case default =>
    have hrate : readSampleRate 44100 = some Config.defaultSampleRate := by decide
    exact (exec_new_of_read hrate 112640 s).symm
  case withType =>
    obtain ⟨rate, hrate⟩ : ∃ rate, readSampleRate a = some rate := ⟨_, if_pos ((sampleRateLegal_iff a).2 ⟨ha, ha'⟩)⟩
    rcases readDiscriminant_spec c with ⟨-, hbig⟩ | ⟨w, hw, hwc, -⟩
    · omega
    have hnew := exec_new_of_read hrate b s
    obtain ⟨w', hwc', hset⟩ := exec_setWaveformType_of_constructed
      (s := s.complete (s.construct rate (s32 b) (seedValue s.seedOk s.seedIn)) ⟨.ok, 0⟩) rfl hc
    obtain rfl : w' = w := BitVec.eq_of_toNat_eq (hwc'.trans hwc.symm)
    refine ⟨_, exec_newWithType_of_read hrate hw b s, ?_⟩
    rw [execAll_cons hnew, execAll_cons hset, execAll_nil]
    rfl

/-! ## The seed port -/

/-- With other values at the seed port a command goes on alike, and leaves them there, where it is no constructor or the
effective seed is the same. -/
theorem exec_withSeed {i : Instr} {s t : State} (hexec : exec i s = .next t) {ok : Bool} {seed : Word}
    (h : i.isConstructor = false ∨ seedValue s.seedOk s.seedIn = seedValue ok seed) :
    exec i { s with seedOk := ok, seedIn := seed } = .next { t with seedOk := ok, seedIn := seed } := by
  obtain ⟨command, hcommand, hignores⟩ := exec_eq_perform i
  have hsame : command (seedValue s.seedOk s.seedIn) = command (seedValue ok seed) :=
    h.elim (fun hi => hignores hi _ _) (congrArg command)
  rw [hcommand, hsame] at hexec
  obtain ⟨c, hc, rfl⟩ := State.perform_next.1 hexec
  rw [hcommand]
  exact State.perform_of_next hc

/-- Settles O55: a command that is no constructor does not read the effective seed, and a failed read of the seed source
fixes it whatever `seed_in` is (40_construction.md R103). -/
theorem seedPortIsReadByConstructorsAlone : Obligations.SeedPortIsReadByConstructorsAlone := by
  refine ⟨fun i s t ok seed hi hexec => exec_withSeed hexec (.inl hi), fun i s t seed hok hexec => ?_⟩
  have hseed : seedValue s.seedOk s.seedIn = seedValue s.seedOk seed := by rw [hok]; rfl
  obtain ⟨b, r, -, rfl⟩ := exec_next_registerWrite hexec
  exact exec_withSeed hexec (.inr hseed)

end Sys2Proof.Machine

namespace Sys2Proof.Machine

/-! # Construction (40_construction.md R100 to R107) -/

/-! ## The state a construction leaves -/

/-- What a constructor that is not rejected leaves of `s`: all ten registers written, the response `(OK, 0)`
(40_construction.md R101, R103, R104). -/
def State.built (s : State) (rate : BitVec 24) (f : Int) (w : BitVec 3) : State :=
  s.complete { s.construct rate f (seedValue s.seedOk s.seedIn) with wtype := w } ⟨.ok, 0⟩

/-- The clamp and the tuning word use the rate of this construction, not an earlier one's. -/
theorem State.built_tuning (s : State) (rate : BitVec 24) (f : Int) (w : BitVec 3) :
    ((s.built rate f w).freq.toNat : Int) = max 0 (min f (128 * rate.toNat)) ∧
    (s.built rate f w).phaseInc.toNat = (s.built rate f w).freq.toNat * 2 ^ 24 / rate.toNat :=
  (s.construct rate f (seedValue s.seedOk s.seedIn)).tune_spec f

theorem State.built_lfsr (s : State) (rate : BitVec 24) (f : Int) (w : BitVec 3) :
    (s.built rate f w).lfsr = if s.seedOk = true ∧ s.seedIn ≠ 0 then s.seedIn else 0xFFFFFFFF#32 :=
  seedValue_eq s.seedOk s.seedIn

/-- No register of the state before is read, and of its ports the response is not. -/
theorem State.built_congr {s s' : State} (hok : s.seedOk = s'.seedOk) (hin : s.seedIn = s'.seedIn)
    (hhost : s.host = s'.host) (hdraws : s.draws = s'.draws) (rate : BitVec 24) (f : Int) (w : BitVec 3) :
    s.built rate f w = s'.built rate f w := by
  have hblock : (s.built rate f w).toBlock = (s'.built rate f w).toBlock := by
    simp only [State.built, State.complete_toBlock, hok, hin]
    rfl
  have hports : (s.built rate f w).toPorts = (s'.built rate f w).toPorts :=
    show Ports.mk s.seedOk s.seedIn _ s.host = Ports.mk s'.seedOk s'.seedIn _ s'.host by rw [hok, hin, hhost]
  exact State.eq_of_parts hblock hports hdraws

/-! ## What each constructor does, by its operands alone -/

theorem exec_new_cases (a b : Word) :
    ((a.toNat = 0 ∨ 2 ^ 24 ≤ a.toNat) ∧
      ∀ s, exec (.new a b) s = .next (s.complete s.toBlock ⟨.errSampleRate, 0⟩)) ∨
    (∃ rate : BitVec 24, rate.toNat = a.toNat ∧ 1 ≤ a.toNat ∧ a.toNat < 2 ^ 24 ∧
      ∀ s, exec (.new a b) s = .next (s.built rate (s32 b) 0)) := by
  rcases readSampleRate_spec a with ⟨hr, ha⟩ | ⟨rate, hr, hrate, hlo, hhi⟩
  · exact .inl ⟨ha, fun s => show execNew a b s = _ from State.perform_of_next (by rw [hr]; rfl)⟩
  · exact .inr ⟨rate, hrate, hlo, hhi, exec_new_of_read hr b⟩

/-- The type is checked before the sample rate (40_construction.md R105). -/
theorem exec_newWithType_cases (a b c : Word) :
    (4 < c.toNat ∧ ∀ s, exec (.newWithType a b c) s = .next (s.complete s.toBlock ⟨.errWaveformType, 0⟩)) ∨
    (c.toNat ≤ 4 ∧ (a.toNat = 0 ∨ 2 ^ 24 ≤ a.toNat) ∧
      ∀ s, exec (.newWithType a b c) s = .next (s.complete s.toBlock ⟨.errSampleRate, 0⟩)) ∨
    (∃ (rate : BitVec 24) (w : BitVec 3), rate.toNat = a.toNat ∧ 1 ≤ a.toNat ∧ a.toNat < 2 ^ 24 ∧
      w.toNat = c.toNat ∧ c.toNat ≤ 4 ∧
      ∀ s, exec (.newWithType a b c) s = .next (s.built rate (s32 b) w)) := by
  rcases readDiscriminant_spec c with ⟨hd, hc⟩ | ⟨w, hd, hw, hc⟩
  · exact .inl ⟨hc, fun s => show execNewWithType a b c s = _ from State.perform_of_next (by rw [hd]; rfl)⟩
  rcases readSampleRate_spec a with ⟨hr, ha⟩ | ⟨rate, hr, hrate, hlo, hhi⟩
  · exact .inr (.inl ⟨hc, ha, fun s => show execNewWithType a b c s = _ from
      State.perform_of_next (by rw [hd, hr]; rfl)⟩)
  · exact .inr (.inr ⟨rate, w, hrate, hlo, hhi, hw, hc, exec_newWithType_of_read hr hd b⟩)

theorem exec_default_eq (s : State) :
    exec .default s = .next (s.built Config.defaultSampleRate Config.defaultFrequency 0) := rfl

/-- A constructor that succeeds in one state constructs in every state, with the same parameters. -/
theorem exec_eq_built_of_ok {i : Instr} {s t : State} (hi : i.isConstructor = true) (hexec : exec i s = .next t)
    (hrsp : t.rsp = some ⟨.ok, 0⟩) :
    ∃ (rate : BitVec 24) (f : Int) (w : BitVec 3), ∀ s, exec i s = .next (s.built rate f w) := by
  have not_rejected (cause : Status) (hcause : cause ≠ .ok) :
      exec i s ≠ .next (s.complete s.toBlock ⟨cause, 0⟩) := by
    intro hreject
    cases hexec.symm.trans hreject
    cases hrsp
    exact hcause rfl
  cases i <;> cases hi
  case new a b =>
    rcases exec_new_cases a b with ⟨-, hreject⟩ | ⟨rate, -, -, -, hbuilt⟩
    · exact absurd (hreject s) (not_rejected _ (by decide))
    · exact ⟨rate, s32 b, 0, hbuilt⟩
  case newWithType a b c =>
    rcases exec_newWithType_cases a b c with ⟨-, hreject⟩ | ⟨-, -, hreject⟩ | ⟨rate, w, -, -, -, -, -, hbuilt⟩
    · exact absurd (hreject s) (not_rejected _ (by decide))
    · exact absurd (hreject s) (not_rejected _ (by decide))
    · exact ⟨rate, s32 b, w, hbuilt⟩
  case default => exact ⟨_, _, _, exec_default_eq⟩

/-! ## The obligations -/

/-- Settles O15: the sample-rate operand decides between construction and rejection; what construction leaves is the tuning
unit's answer at the new rate, the seed rule's, and constants. -/
theorem newConstructsOrRejects : Obligations.NewConstructsOrRejects := by
  refine ⟨fun s a b hlo hhi => ?legal, fun s a b ha => ?illegal⟩ <;>
    rcases exec_new_cases a b with ⟨hbad, hreject⟩ | ⟨rate, hrate, hlo', hhi', hbuilt⟩
  case legal.inl => omega
  case legal.inr =>
    obtain ⟨hfreq, hinc⟩ := s.built_tuning rate (s32 b) 0
    rw [hrate] at hfreq hinc
    exact ⟨_, hbuilt s, hrate, hfreq, hinc, rfl, rfl, rfl, rfl, rfl, s.built_lfsr _ _ _, rfl, rfl, rfl, rfl, rfl, rfl⟩
  case illegal.inl => exact hreject s
  case illegal.inr => omega

/-- Settles O16: the three clauses are the three cases of the command, and exclude each other by the operands. -/
theorem newWithTypeConstructsOrRejects : Obligations.NewWithTypeConstructsOrRejects := by
  refine ⟨fun s a b c hc hlo hhi => ?legal, fun s a b c hc => ?badType, fun s a b c hc ha => ?badRate⟩ <;>
    rcases exec_newWithType_cases a b c with
      ⟨hc', hreject⟩ | ⟨hc', ha', hreject⟩ | ⟨rate, w, hrate, hlo', hhi', hw, hc', hbuilt⟩
  case legal.inr.inr =>
    obtain ⟨hfreq, hinc⟩ := s.built_tuning rate (s32 b) w
    rw [hrate] at hfreq hinc
    exact ⟨_, hbuilt s, hrate, hfreq, hinc, rfl, rfl, rfl, hw, rfl, s.built_lfsr _ _ _, rfl, rfl, rfl, rfl, rfl, rfl⟩
  case badType.inl => exact hreject s
  case badRate.inr.inl => exact hreject s
  all_goals omega

/-- Settles O19: success is decided by the operands, and the state left is built from them, the seed port, the host's stream
and the draw counter. -/
theorem constructionForgetsTheOldState : Obligations.ConstructionForgetsTheOldState := by
  intro i s s' t hi hok hin hhost hdraws hexec hrsp
  obtain ⟨rate, f, w, hbuilt⟩ := exec_eq_built_of_ok hi hexec hrsp
  calc exec i s' = .next (s'.built rate f w) := hbuilt s'
    _ = .next (s.built rate f w) := by rw [State.built_congr hok hin hhost hdraws]
    _ = .next t := (hbuilt s).symm.trans hexec

/-- The registers `DEFAULT` writes, evaluated: 440 Hz is below the Nyquist limit, and the tuning word is the floor of
112640 * 2^24 / 44100 (40_construction.md R106). -/
theorem Block.construct_default (b : Block) (seed : Word) :
    b.construct Config.defaultSampleRate Config.defaultFrequency seed =
      ⟨44100, 112640, 42852281, 65536, 0, 0, 0, 0, seed, true⟩ := by
  have hfreq : clampFrequency Config.defaultFrequency Config.defaultSampleRate.toNat = 112640 := by decide
  have hinc : tuningWord 112640 Config.defaultSampleRate.toNat = 42852281 := by decide
  simp only [Block.construct, Block.tune, hfreq, hinc]
  rfl

/-- Settles O17: `DEFAULT` constructs in every state; its registers are the evaluated ones and the seed rule's `LFSR`. -/
theorem defaultConstructsAlways : Obligations.DefaultConstructsAlways := by
  intro s
  rw [← seedValue_eq]
  calc exec .default s
      = .next (s.complete (s.construct Config.defaultSampleRate Config.defaultFrequency
          (seedValue s.seedOk s.seedIn)) ⟨.ok, 0⟩) := rfl
    _ = .next (s.complete ⟨44100, 112640, 42852281, 65536, 0, 0, 0, 0, seedValue s.seedOk s.seedIn, true⟩ ⟨.ok, 0⟩) := by
        rw [Block.construct_default]

end Sys2Proof.Machine

namespace Sys2Proof.Machine

/-! # Configuration (41_configuration.md R120 to R133) -/

/-! ## The commands at a constructed block -/

section
variable {s : State} (hs : s.constructed = true)
include hs

theorem exec_reset_of_constructed :
    exec .reset s = .next (s.complete { s.toBlock with phase := 0 } ⟨.ok, 0⟩) :=
  perform_of_constructed hs (fun b => { b with phase := 0 }) fun _ => 0

/-- The whole 32-bit operand is compared, and `WTYPE` keeps its value (41_configuration.md R130). -/
theorem exec_setWaveformType_of_illegal {a : Word} (ha : 4 < a.toNat) :
    exec (.setWaveformType a) s = .next (s.complete s.toBlock ⟨.errWaveformType, 0⟩) := by
  rcases readDiscriminant_spec a with ⟨hd, -⟩ | ⟨w, -, -, hle⟩
  · refine show execSetWaveformType a s = _ from State.perform_of_next ?_
    rw [whenConstructed_of_true hs, hd]
    rfl
  · omega

theorem exec_getWaveformName_of_code {w : WaveformType} {d : Data} (hname : packName (nameBytes w) = d)
    (hw : s.wtype = WaveformType.code w) :
    exec .getWaveformName s = .next (s.complete s.toBlock ⟨.ok, d⟩) := by
  refine show execGetWaveformName s = _ from State.perform_of_next ?_
  rw [whenConstructed_of_true hs, hw, ofBits_code, ← hname]
  rfl

end

/-! ## The tuning word and the quantities it stands for -/

/-- The reference increment, in units of 2^−32 turn, is the quotient that the tuning unit floors
(41_configuration.md R122). -/
theorem Block.frequencyHz_div_sampleRateHz (b : Block) :
    b.frequencyHz / b.sampleRateHz = (b.freq.toNat * 2 ^ 24 : ℕ) / (b.sampleRate.toNat : ℚ) / 2 ^ 32 := by
  unfold Block.frequencyHz Block.sampleRateHz
  push_cast
  ring

theorem Block.frequencyHz_eq_half_iff (b : Block) :
    b.frequencyHz = b.sampleRateHz / 2 ↔ b.freq.toNat = 128 * b.sampleRate.toNat := by
  unfold Block.frequencyHz Block.sampleRateHz
  rw [← Nat.cast_inj (R := ℚ)]
  push_cast
  constructor <;> intro h <;> linarith

/-- A floored increment is at most the reference, and less than one unit of 2^−32 turn below it. -/
theorem Block.phaseIncrementTurns_floor {b : Block}
    (hinc : b.phaseInc.toNat = b.freq.toNat * 2 ^ 24 / b.sampleRate.toNat) :
    b.phaseIncrementTurns ≤ b.frequencyHz / b.sampleRateHz ∧
    b.frequencyHz / b.sampleRateHz < b.phaseIncrementTurns + 1 / 2 ^ 32 := by
  have hfloor : b.phaseInc.toNat = ⌊((b.freq.toNat * 2 ^ 24 : ℕ) : ℚ) / b.sampleRate.toNat⌋₊ := by
    rw [hinc, Nat.floor_div_eq_div]
  rw [b.frequencyHz_div_sampleRateHz, Block.phaseIncrementTurns, ← add_div, hfloor]
  constructor
  · gcongr
    exact Nat.floor_le (by positivity)
  · gcongr
    exact Nat.lt_floor_add_one _

/-- Half a turn per sample is reached at the Nyquist limit alone (41_configuration.md R122). -/
theorem tuningWord_eq_half_iff {f r : Nat} (hr : 1 ≤ r) (hf : f ≤ 128 * r) :
    tuningWord f r = 2 ^ 31 ↔ f = 128 * r := by
  have hreached : 2 ^ 31 ≤ tuningWord f r ↔ 2 ^ 31 * r ≤ f * 2 ^ 24 := Nat.le_div_iff_mul_le hr
  have hle := tuningWord_le hf
  omega

/-! ## The obligations -/

/-- Settles O20: the tuning unit's answer, written to its two registers. -/
theorem setFrequencyClampsAndTunes : Obligations.SetFrequencyClampsAndTunes := by
  refine ⟨fun s a hs hrate => ?_, fun s a hs => exec_of_unconstructed rfl hs⟩
  obtain ⟨hfreq, hinc⟩ := s.tune_spec (s32 a)
  exact ⟨_, exec_setFrequency_of_constructed hs a hrate, hfreq, hinc, rfl⟩

/-- Settles O21: of R38 the clauses (a) to (c), by which the increment is the floored tuning word of a frequency up to the
Nyquist limit. -/
theorem tuningWordIsTheFlooredReference : Obligations.TuningWordIsTheFlooredReference := by
  intro s hlegal
  obtain ⟨⟨hrate, -⟩, hnyquist, ⟨hinc, hhalf⟩, -⟩ := hlegal
  obtain ⟨hle, hlt⟩ := Block.phaseIncrementTurns_floor hinc
  refine ⟨hle, hlt, hhalf, ?_⟩
  rw [s.frequencyHz_eq_half_iff, hinc]
  exact tuningWord_eq_half_iff hrate hnyquist

/-- Settles O23: the normalised operand fits the register, and is the truncated remainder outside one turn. -/
theorem setPhaseOffsetNormalises : Obligations.SetPhaseOffsetNormalises := by
  refine ⟨fun s a hs => ?_, fun s a hs => exec_of_unconstructed rfl hs⟩
  have hstored := phoff_register_toInt (s32 a)
  obtain ⟨hlo, hhi⟩ := normalisePhaseOffset_range (s32 a)
  exact ⟨_, exec_setPhaseOffset_of_constructed hs a, hstored.trans (normalisePhaseOffset_eq _), hlo.trans_eq hstored.symm,
    hstored.trans_le hhi, rfl⟩

/-- Settles O22. -/
theorem setGainRegistersVerbatim : Obligations.SetGainRegistersVerbatim := fun _ a =>
  ⟨fun hs => ⟨exec_setAmplitude_of_constructed hs a, exec_setDcOffset_of_constructed hs a⟩,
    fun hs => ⟨exec_of_unconstructed rfl hs, exec_of_unconstructed rfl hs⟩⟩

/-- Settles O24: the operand is a discriminant or is refused, and the guard comes before both. -/
theorem setWaveformTypeConvertsOrRejects : Obligations.SetWaveformTypeConvertsOrRejects := by
  refine ⟨fun s a hs ha => ?_, fun s a hs ha => exec_setWaveformType_of_illegal hs ha,
    fun s a hs => exec_of_unconstructed rfl hs⟩
  obtain ⟨w, hw, hset⟩ := exec_setWaveformType_of_constructed hs ha
  exact ⟨_, hset, hw, rfl⟩

/-- Settles O25. -/
theorem resetCommandClearsPhaseOnly : Obligations.ResetCommandClearsPhaseOnly := fun _ =>
  ⟨fun hs => exec_reset_of_constructed hs, fun hs => exec_of_unconstructed rfl hs⟩

/-- Settles O26: what each getter reads, the integer it answers being the register extended. -/
theorem numericGettersAnswerTheRegister : Obligations.NumericGettersAnswerTheRegister := by
  refine fun s => ⟨fun hs => ?constructed, fun hs i hi => ?unconstructed⟩
  case constructed =>
    simp only [← zext64_register, ← sext64_register]
    exact ⟨getFrequency_reads s hs, getAmplitude_reads s hs, getDcOffset_reads s hs, getPhaseOffset_reads s hs,
      getWaveformType_reads s hs⟩
  case unconstructed =>
    have hgetters : ∀ i ∈ [Instr.getFrequency, .getAmplitude, .getDcOffset, .getPhaseOffset, .getWaveformType],
        i.isConstructor = false := by decide
    exact exec_of_unconstructed (hgetters i hi) hs

/-- Settles O27: the bytes of each name, packed, are the number of R133's table. -/
theorem getWaveformNameAnswersTheName : Obligations.GetWaveformNameAnswersTheName := by
  have hsine : packName (nameBytes .sine) = 0x00000000656E6953 := by decide
  have hsquare : packName (nameBytes .square) = 0x0000657261757153 := by decide
  have htriangle : packName (nameBytes .triangle) = 0x656C676E61697254 := by decide
  have hsawtooth : packName (nameBytes .sawtooth) = 0x68746F6F74776153 := by decide
  have hnoise : packName (nameBytes .noise) = 0x0000006573696F4E := by decide
  exact fun s => ⟨fun hs =>
    ⟨exec_getWaveformName_of_code hs hsine, exec_getWaveformName_of_code hs hsquare,
      exec_getWaveformName_of_code hs htriangle, exec_getWaveformName_of_code hs hsawtooth,
      exec_getWaveformName_of_code hs hnoise⟩, fun hs => exec_of_unconstructed rfl hs⟩

end Sys2Proof.Machine

namespace Sys2Proof.Machine

/-! # `PROCESS` (42_process.md R160 to R169) -/

/-! ## The selected variant -/

theorem exists_variant_of_le {w : BitVec 3} (hw : w.toNat ≤ 4) : ∃ v, WaveformType.ofBits w = some v := by
  rcases ofBits_spec w with ⟨v, hv, -, -⟩ | ⟨-, hbig⟩
  · exact ⟨v, hv⟩
  · omega

/-- Discriminant 4 is Noise's (30_encoding.md R83). -/
theorem eq_noise_iff {w : BitVec 3} {v : WaveformType} (hv : WaveformType.ofBits w = some v) :
    v = .noise ↔ w = 4 := by
  rw [(ofBits_eq_some_iff w v).1 hv]
  cases v <;> decide

/-! ## The sample -/

/-- The response of `PROCESS` reads back as the sample: `OUT` is narrower than the 64 bits of data. -/
theorem Block.sext64_sample_toInt (b : Block) (v : WaveformType) : (sext64 (b.sample v)).toInt = b.sample v := by
  obtain ⟨hlo, hhi⟩ := b.sample_range v
  exact sext64_toInt (by omega) (by omega)

theorem Block.sample_eq_of_response_eq {b b' : Block} {v v' : WaveformType}
    (h : (⟨.ok, sext64 (b.sample v)⟩ : Response) = ⟨.ok, sext64 (b'.sample v')⟩) : b.sample v = b'.sample v' := by
  rw [← b.sext64_sample_toInt v, ← b'.sext64_sample_toInt v', (Response.mk.inj h).2]

/-- Noise alone is shaped from `LFSR` (42_process.md R162). -/
theorem shape_of_ne_noise {v : WaveformType} (hv : v ≠ .noise) (phase l l' : Word) :
    shape v phase l = shape v phase l' := by
  cases v with
  | noise => exact absurd rfl hv
  | sine | square | triangle | sawtooth => rfl

/-- At amplitude 0 the shaper does not matter (42_process.md R168 (b)). -/
theorem Block.sample_of_amp_zero {b : Block} (h : b.amp = 0) (v : WaveformType) : b.sample v = b.dc.toInt := by
  simp [Block.sample_eq, h]

/-- At amplitude 1 nothing is rounded. -/
theorem Block.sample_of_amp_one {b : Block} (h : b.amp = 65536) (v : WaveformType) :
    b.sample v = b.dc.toInt + shape v b.phase b.lfsr := by
  rw [Block.sample_eq, h, show (65536 : Word).toInt = 65536 by decide, Int.mul_ediv_cancel _ (by decide)]

/-- The offset is added after the floor, so it adds exactly (42_process.md R168 (c)). -/
theorem Block.sample_eq_add_dc (b : Block) (v : WaveformType) :
    b.sample v = Block.sample { b with dc := 0 } v + b.dc.toInt := by
  simp [Block.sample_eq, add_comm]

/-- The values the shapers start from at phase 0 (42_process.md R169). -/
theorem shape_at_phase_zero (l : Word) :
    shape .sine 0 l = 0 ∧ shape .square 0 l = 65536 ∧ shape .triangle 0 l = -65536 ∧ shape .sawtooth 0 l = -65536 :=
  ⟨show sineShape 0 = 0 by decide +kernel, show squareShape 0 = 65536 by decide, show triangleShape 0 = -65536 by decide,
    show sawtoothShape 0 = -65536 by decide⟩

/-- A shape value of 0, 1 or -1 (`k` in units of one) takes the amplitude that many times, without rounding. -/
theorem Block.sample_of_integral_shape {b : Block} {v : WaveformType} {k : Int} (h : shape v b.phase b.lfsr = k * 65536) :
    b.sample v = b.dc.toInt + k * b.amp.toInt := by
  rw [Block.sample_eq, h, mul_right_comm, Int.mul_ediv_cancel _ (by decide)]

/-! ## The sample and the real-valued reference -/

/-- The reference of 42_process.md R165, in units of 2^-32. -/
theorem Block.reference_eq (b : Block) (shapeValue : Int) :
    b.dcOffsetValue + gainValue shapeValue * b.amplitudeValue =
      ((b.dc.toInt * 2 ^ 16 + shapeValue * b.amp.toInt : ℤ) : ℚ) / 2 ^ 32 := by
  unfold Block.dcOffsetValue gainValue Block.amplitudeValue
  push_cast
  ring

/-- A raw sample in units of 2^-32. -/
theorem gainValue_eq (raw : Int) : gainValue raw = ((raw * 2 ^ 16 : ℤ) : ℚ) / 2 ^ 32 := by
  unfold gainValue
  push_cast
  ring

/-- Settles O30: in units of 2^-32 the reference and the sample are integers, and the gain stage floors the one to the
multiple of 2^16 that is the other. -/
theorem sampleIsTheFlooredReference : Obligations.SampleIsTheFlooredReference := by
  intro s w
  obtain ⟨hle, hlt⟩ : (s.sample w - s.dc.toInt) * 2 ^ 16 ≤ shape w s.phase s.lfsr * s.amp.toInt ∧
      shape w s.phase s.lfsr * s.amp.toInt < (s.sample w - s.dc.toInt + 1) * 2 ^ 16 := gainStage_spec _ _ _
  obtain ⟨hlo, hhi⟩ := s.sample_range w
  simp only [s.reference_eq]
  rw [gainValue_eq]
  refine ⟨?below, ?within, hlo, by omega, fun hdvd => ?exact⟩
  case below =>
    gcongr
    omega
  case within =>
    rw [show (1 / 2 ^ 16 : ℚ) = (2 ^ 16 : ℤ) / 2 ^ 32 by norm_num, ← add_div, ← Int.cast_add]
    gcongr ((?_ : ℤ) : ℚ) / _
    omega
  case exact =>
    have hfloor := Int.ediv_mul_cancel hdvd
    rw [Block.sample_eq, add_mul, show (2 ^ 16 : ℤ) = 65536 by norm_num, hfloor]

/-! ## One `PROCESS` -/

/-- Settles O29: each variant by its discriminant, and the rejection. -/
theorem processRunsTheSelectedShaper : Obligations.ProcessRunsTheSelectedShaper := by
  refine fun s => ⟨fun hs => ?constructed, fun hs => exec_of_unconstructed rfl hs⟩
  case constructed =>
    have hprocess (v : WaveformType) (hv : s.wtype = WaveformType.code v) :
        exec .process s = .next (s.complete (s.advance v) ⟨.ok, sext64 (s.sample v)⟩) :=
      execProcess_of_variant hs ((ofBits_eq_some_iff s.wtype v).2 hv)
    exact ⟨hprocess .sine, hprocess .square, hprocess .triangle, hprocess .sawtooth, hprocess .noise⟩

/-- Settles O56: 5, 6 and 7 name no variant. -/
theorem unreachableWaveformTypeStops : Obligations.UnreachableWaveformTypeStops := by
  intro s hs hw
  rcases ofBits_spec s.wtype with ⟨-, -, -, hsmall⟩ | ⟨hnone, -⟩
  · omega
  · exact ⟨show execProcess s = _ from State.perform_of_fault (by rw [whenConstructed_of_true hs, hnone]),
      show execGetWaveformName s = _ from State.perform_of_fault (by rw [whenConstructed_of_true hs, hnone])⟩

/-- Settles O43: `PROCESS` reads the variant and not the offset to find its shaper, and the offset adds exactly. -/
theorem offsetAddsExactly : Obligations.OffsetAddsExactly := by
  intro s hs hw
  obtain ⟨v, hv⟩ := exists_variant_of_le hw
  have hprocess := execProcess_of_variant hs hv
  have hprocess0 := execProcess_of_variant (s := { s with dc := 0 }) hs hv
  refine ⟨_, _, _, _, hprocess, hprocess0, rfl, rfl, ?_, rfl⟩
  rw [Block.sext64_sample_toInt, Block.sext64_sample_toInt]
  exact s.sample_eq_add_dc v

/-- Settles O47: the sample of each variant from the shape value at phase 0. -/
theorem firstSampleByType : Obligations.FirstSampleByType := by
  intro s hs hphase
  obtain ⟨hsine, hsquare, htriangle, hsawtooth⟩ := shape_at_phase_zero s.lfsr
  rw [← hphase] at hsine hsquare htriangle hsawtooth
  have hprocess (v : WaveformType) :=
    execProcess_of_variant (s := { s with wtype := WaveformType.code v }) hs (ofBits_code v)
  refine ⟨_, _, hprocess .sine, rfl, ?sine, _, _, hprocess .square, rfl, ?square, _, _, hprocess .triangle, rfl, ?triangle,
    _, _, hprocess .sawtooth, rfl, ?sawtooth, _, _, hprocess .noise, rfl, ?noise, by decide⟩ <;>
    rw [Block.sext64_sample_toInt]
  case sine => exact (Block.sample_of_integral_shape (k := 0) hsine).trans (by simp)
  case square => exact (Block.sample_of_integral_shape (k := 1) hsquare).trans (by simp)
  case triangle => exact (Block.sample_of_integral_shape (k := -1) htriangle).trans (by simp [sub_eq_add_neg])
  case sawtooth => exact (Block.sample_of_integral_shape (k := -1) hsawtooth).trans (by simp [sub_eq_add_neg])
  case noise => rfl

/-! ## `n` times `PROCESS` -/

/-- The registers after `n` `PROCESS` commands with variant `v` selected (42_process.md R163, R164). -/
def Block.advanced (b : Block) (v : WaveformType) (n : Nat) : Block :=
  { b with
    phase := BitVec.ofNat 32 (b.phase.toNat + n * b.phaseInc.toNat)
    lfsr := if v = .noise then lfsrAdvance^[n] b.lfsr else b.lfsr }

/-- The registers after those and a `RESET` (41_configuration.md R132). -/
def Block.rewound (b : Block) (v : WaveformType) (n : Nat) : Block := { b.advanced v n with phase := 0 }

@[simp] theorem Block.rewound_phase (b : Block) (v : WaveformType) (n : Nat) : (b.rewound v n).phase = 0 := rfl

@[simp] theorem Block.rewound_phaseInc (b : Block) (v : WaveformType) (n : Nat) :
    (b.rewound v n).phaseInc = b.phaseInc := rfl

theorem Block.advanced_zero (b : Block) (v : WaveformType) : b.advanced v 0 = b := by
  simp [Block.advanced]

/-- The closed form is the iteration of `PROCESS`'s state update. -/
theorem Block.advanced_succ (b : Block) (v : WaveformType) (n : Nat) :
    b.advanced v (n + 1) = (b.advanced v n).advance v := by
  have hphase : BitVec.ofNat 32 (b.phase.toNat + (n + 1) * b.phaseInc.toNat) =
      BitVec.ofNat 32 (b.phase.toNat + n * b.phaseInc.toNat) + b.phaseInc := by
    rw [Nat.succ_mul, ← Nat.add_assoc, BitVec.ofNat_add, BitVec.ofNat_toNat, BitVec.setWidth_eq]
  unfold Block.advanced Block.advance
  by_cases hv : v = .noise <;> simp only [hv, if_true, if_false, hphase, Function.iterate_succ_apply']

theorem execAll_cons_next {i : Instr} {is : List Instr} {s t : State} (h : execAll (i :: is) s = .next t) :
    ∃ u, exec i s = .next u ∧ execAll is u = .next t := by
  cases hi : exec i s with
  | next u => exact ⟨u, rfl, execAll_cons hi ▸ h⟩
  | fault f => simp [execAll, hi] at h
  | refused r => simp [execAll, hi] at h

theorem execAll_append {is js : List Instr} {s t : State} (h : execAll is s = .next t) :
    execAll (is ++ js) s = execAll js t := by
  induction is generalizing s with
  | nil => cases h; rfl
  | cons i is ih =>
    obtain ⟨u, hi, his⟩ := execAll_cons_next h
    rw [List.cons_append, execAll_cons hi, ih his]

theorem processTimes_succ_of_next {n : Nat} {s t u : State} (hn : processTimes n s = .next t)
    (h : exec .process t = .next u) : processTimes (n + 1) s = .next u := by
  rw [processTimes, List.replicate_succ', execAll_append hn, execAll_cons h, execAll_nil]

section
variable {s : State} {v : WaveformType} (hs : s.constructed = true) (hv : WaveformType.ofBits s.wtype = some v)
include hs hv

/-- Up to the response, which is the old one where `n` is 0. -/
theorem processTimes_of_variant (n : Nat) :
    ∃ r, processTimes n s = .next ⟨s.advanced v n, { s.toPorts with rsp := r }, s.draws⟩ := by
  induction n with
  | zero => exact ⟨s.rsp, by rw [Block.advanced_zero]; rfl⟩
  | succ n ih =>
    obtain ⟨r, hrun⟩ := ih
    rw [Block.advanced_succ]
    exact ⟨_, processTimes_succ_of_next hrun (execProcess_of_variant hs hv)⟩

/-- The last of `n + 1` `PROCESS` commands answers the sample of the registers that the `n` before it left. -/
theorem processTimes_succ_of_variant (n : Nat) :
    processTimes (n + 1) s = .next (s.complete (s.advanced v (n + 1)) ⟨.ok, sext64 ((s.advanced v n).sample v)⟩) := by
  obtain ⟨r, hrun⟩ := processTimes_of_variant hs hv n
  rw [Block.advanced_succ]
  exact processTimes_succ_of_next hrun (execProcess_of_variant hs hv)

/-- `RESET` after `n` `PROCESS` commands, then one more: the sample is of the advanced registers at phase 0. -/
theorem execAll_process_reset_process (n : Nat) :
    execAll (List.replicate n .process ++ [.reset, .process]) s =
      .next (s.complete ((s.rewound v n).advance v) ⟨.ok, sext64 ((s.rewound v n).sample v)⟩) := by
  obtain ⟨r, hrun⟩ := processTimes_of_variant hs hv n
  have hreset := exec_reset_of_constructed (s := ⟨s.advanced v n, { s.toPorts with rsp := r }, s.draws⟩) hs
  rw [execAll_append hrun, execAll_cons hreset]
  exact execAll_cons (execProcess_of_variant hs hv)

end

/-- Settles O40: the closed form, whose phase is a register and so wraps. -/
theorem stateAfterManyProcessCommands : Obligations.StateAfterManyProcessCommands := by
  intro n s hs hw
  obtain ⟨v, hv⟩ := exists_variant_of_le hw
  obtain ⟨r, hrun⟩ := processTimes_of_variant hs hv n
  refine ⟨_, hrun, BitVec.toNat_ofNat _ _, ?_, rfl⟩
  simp only [Block.advanced, eq_noise_iff hv]

/-- Settles O41: the phase before the last command is `n` increments, and no other register that moves is read. -/
theorem phaseDrivenSamplesAreAFunctionOfTheCount : Obligations.PhaseDrivenSamplesAreAFunctionOfTheCount := by
  intro n s v hs hphase hnoise hv
  refine ⟨_, _, processTimes_succ_of_variant hs hv n, rfl, fun l => ?_⟩
  have hadvanced : (s.advanced v n).phase = BitVec.ofNat 32 (n * s.phaseInc.toNat) := by simp [Block.advanced, hphase]
  rw [Block.sext64_sample_toInt, Block.sample_eq, hadvanced, shape_of_ne_noise hnoise _ _ l]
  rfl

/-- Settles O42: `PROCESS` leaves the amplitude at 0, and there the sample is the offset. -/
theorem zeroAmplitudeAnswersTheOffset : Obligations.ZeroAmplitudeAnswersTheOffset := by
  intro n s hs hw
  obtain ⟨v, hv⟩ := exists_variant_of_le hw
  have hset := exec_setAmplitude_of_constructed hs 0
  have hrun := processTimes_succ_of_variant (s := s.complete { s.toBlock with amp := 0 } ⟨.ok, 0⟩) hs hv n
  refine ⟨_, (execAll_cons hset).trans hrun, ?_⟩
  rw [State.complete_rsp, Block.sample_of_amp_zero rfl, sext64_register]
  rfl

/-! ## `RESET` between samples -/

/-- Settles O44: `RESET` brings back the phase, and of the registers that `PROCESS` moves a phase-driven type reads that one
alone. -/
theorem resetRepeatsTheFirstSample : Obligations.ResetRepeatsTheFirstSample := by
  intro n s hs hw hphase
  obtain ⟨v, hv⟩ := exists_variant_of_le hw.le
  have hnoise : v ≠ .noise := by
    intro h
    rw [(eq_noise_iff hv).1 h] at hw
    exact absurd hw (by decide)
  have hsample : (s.rewound v n).sample v = s.sample v := by
    rw [Block.sample_eq, Block.sample_eq, Block.rewound_phase, hphase, shape_of_ne_noise hnoise _ _ s.lfsr]
    rfl
  refine ⟨_, _, execProcess_of_variant hs hv, execAll_process_reset_process hs hv n, ?rsp, ?phase⟩
  case rsp => rw [State.complete_rsp, State.complete_rsp, hsample]
  case phase => simp [hphase]

/-- The fallback seed and its successor are shaped to different values (43_shapers.md R203, R204). -/
theorem noiseShape_fallback_ne : noiseShape 0xFFFFFFFF ≠ noiseShape (lfsrAdvance 0xFFFFFFFF) := by decide +kernel

/-- Settles O45: `RESET` leaves `LFSR` as the first `PROCESS` advanced it, and Noise is shaped from `LFSR` alone. -/
theorem resetDoesNotRewindTheNoise : Obligations.ResetDoesNotRewindTheNoise := by
  intro s hs hw
  have hv : WaveformType.ofBits s.wtype = some .noise := (ofBits_eq_some_iff s.wtype .noise).2 hw
  have hfirst := s.sext64_sample_toInt .noise
  have hsecond := (s.rewound .noise 1).sext64_sample_toInt .noise
  refine ⟨_, _, _, _, execProcess_of_variant hs hv, execAll_process_reset_process hs hv 1, rfl, hfirst, rfl, hsecond,
    by simp, rfl, fun hseed hamp hrsp => ?differ⟩
  case differ =>
    have hsample : (s.rewound .noise 1).sample .noise = s.sample .noise :=
      Block.sample_eq_of_response_eq (Option.some.inj hrsp)
    rw [Block.sample_of_amp_one hamp, Block.sample_of_amp_one (b := s.rewound .noise 1) hamp] at hsample
    have hshape : noiseShape (lfsrAdvance s.lfsr) = noiseShape s.lfsr := add_left_cancel hsample
    rw [hseed] at hshape
    exact noiseShape_fallback_ne hshape.symm

/-! ## The phase offset -/

/-- `PROCESS` neither reads nor writes `PHOFF`. -/
theorem exec_process_withPhoff {s t : State} (h : exec .process s = .next t) (phoff : BitVec 26) :
    exec .process { s with phoff := phoff } = .next { t with phoff := phoff } := by
  rcases execProcess_next h with ⟨hs, rfl⟩ | ⟨hs, v, hv, rfl⟩
  · exact exec_of_unconstructed rfl hs
  · exact execProcess_of_variant (s := { s with phoff := phoff }) hs hv

/-- Settles O46, by induction on the number of `PROCESS` commands. -/
theorem phaseOffsetIsDeadState : Obligations.PhaseOffsetIsDeadState := by
  intro n s t phoff hrun
  induction n generalizing s with
  | zero => cases hrun; rfl
  | succ n ih =>
    obtain ⟨u, hstep, hrest⟩ := execAll_cons_next hrun
    rw [processTimes_succ (exec_process_withPhoff hstep phoff), ih u hrest]

/-! ## Runs of a legal block -/

/-- At a legal block the faults are out of reach: `WTYPE` names a variant and the sample rate is not 0
(10_state.md R38 (a), (e)). -/
theorem exec_of_legal {s : State} (hs : s.constructed = true) (hlegal : s.Legal) {i : Instr}
    (hi : i.isConstructor = false) : ∃ t, exec i s = .next t := by
  obtain ⟨⟨hrate, -⟩, -, -, -, hwtype, -⟩ := hlegal
  obtain ⟨v, hv⟩ := exists_variant_of_le hwtype
  cases i with
  | new | newWithType | default => cases hi
  | process => exact ⟨_, execProcess_of_variant hs hv⟩
  | reset => exact ⟨_, exec_reset_of_constructed hs⟩
  | setFrequency a =>
    refine ⟨_, exec_setFrequency_of_constructed hs a fun hzero => ?_⟩
    rw [hzero] at hrate
    exact absurd hrate (by decide)
  | setAmplitude a => exact ⟨_, exec_setAmplitude_of_constructed hs a⟩
  | setDcOffset a => exact ⟨_, exec_setDcOffset_of_constructed hs a⟩
  | setPhaseOffset a => exact ⟨_, exec_setPhaseOffset_of_constructed hs a⟩
  | setWaveformType a =>
    by_cases ha : a.toNat ≤ 4
    · obtain ⟨w, -, hset⟩ := exec_setWaveformType_of_constructed hs ha
      exact ⟨_, hset⟩
    · exact ⟨_, exec_setWaveformType_of_illegal hs (by omega)⟩
  | getFrequency => exact ⟨_, getFrequency_reads s hs⟩
  | getAmplitude => exact ⟨_, getAmplitude_reads s hs⟩
  | getDcOffset => exact ⟨_, getDcOffset_reads s hs⟩
  | getPhaseOffset => exact ⟨_, getPhaseOffset_reads s hs⟩
  | getWaveformType => exact ⟨_, getWaveformType_reads s hs⟩
  | getWaveformName => exact ⟨_, exec_getWaveformName_of_code hs rfl ((ofBits_eq_some_iff s.wtype v).1 hv)⟩

/-- A constructor cannot fault, nor can any other command before construction, nor at a legal block. -/
theorem exec_of_inv {s : State} (hinv : s.Inv) (i : Instr) : ∃ t, exec i s = .next t := by
  cases hi : i.isConstructor with
  | true =>
    rcases exec_of_constructor hi with ⟨cause, hreject⟩ | ⟨rate, f, w, -, -, hconstruct⟩
    · exact ⟨_, hreject s⟩
    · exact ⟨_, hconstruct s⟩
  | false =>
    cases hs : s.constructed with
    | false => exact ⟨_, exec_of_unconstructed hi hs⟩
    | true => exact exec_of_legal hs (hinv hs) hi

/-- A step idles, resets the block, or runs a command; neither the seed port nor the stream is in the invariant. -/
theorem step_of_inv {s : State} (hinv : s.Inv) : ∃ t, step s = .next t := by
  match hhost : s.host with
  | [] => exact ⟨_, step_of_nothing hhost⟩
  | .hardwareReset :: rest => exact ⟨_, step_of_hardwareReset hhost⟩
  | .command word ok seed :: rest =>
    rw [step_of_command hhost]
    exact exec_of_inv (s := s.accept ok seed rest) hinv (decode word)

/-- Settles O51, by induction on the number of steps: each goes on, to a state with the invariant again. -/
theorem legalRunsNeverStop : Obligations.LegalRunsNeverStop := by
  intro s k hinv
  induction k generalizing s with
  | zero => exact ⟨s, core_run_zero s⟩
  | succ k ih =>
    obtain ⟨t, hstep⟩ := step_of_inv hinv
    rw [core_run_of_next hstep]
    exact ih t (stepKeepsTheInvariant s t hinv hstep)

end Sys2Proof.Machine

namespace Sys2Proof.Machine

/-! # The shapers (43_shapers.md) -/

/-! ## Comparator and ramps (43_shapers.md R196 to R199) -/

/-- The comparator reads the half-wave, bit 31. -/
theorem squareShape_eq (p : Word) : squareShape p = if p.toNat < 2 ^ 31 then 65536 else -65536 := by
  have hp := p.isLt
  unfold squareShape slice
  exact if_congr (by omega) rfl rfl

theorem triangleShape_eq (p : Word) :
    triangleShape p =
      if p.toNat < 2 ^ 31 then ((p.toNat / 2 ^ 14 : Nat) : Int) - 65536 else 196608 - ((p.toNat / 2 ^ 14 : Nat) : Int) := by
  obtain ⟨hramp, -⟩ := rampPhase_eq p
  rw [triangleShape, hramp]
  exact if_congr (by omega) rfl rfl

theorem sawtoothShape_eq (p : Word) : sawtoothShape p = ((p.toNat / 2 ^ 15 : Nat) : Int) - 65536 := by
  obtain ⟨hramp, -⟩ := rampPhase_eq p
  rw [sawtoothShape, hramp, Nat.div_div_eq_div_mul, ← pow_succ]

/-- Settles O35: the formulas floor, and where the triangle falls the floor is subtracted and so a ceiling. -/
theorem comparatorAndRampShapes : Obligations.ComparatorAndRampShapes := by
  intro p
  rw [squareShape_eq, triangleShape_eq, sawtoothShape_eq]
  refine ⟨fun hlow => if_pos hlow, fun hhigh => if_neg (by omega), fun hlow => ?rising, fun hhigh => ?falling, rfl,
    ?ramp⟩
  case rising => rw [if_pos hlow]; omega
  case falling => rw [if_neg (by omega)]; omega
  case ramp => omega

/-! ## The noise shape (43_shapers.md R204) -/

/-- The top 17 bits, signed, are the whole word, signed, without its low 15 bits. -/
theorem noiseShape_eq (l : Word) : noiseShape l = l.toInt / 2 ^ 15 := by
  have hl := l.isLt
  unfold noiseShape slice
  simp only [BitVec.toInt_eq_toNat_cond, BitVec.toNat_ofNat]
  split <;> split <;> omega

/-- Settles O36. -/
theorem noiseShapeIsTheTopBits : Obligations.NoiseShapeIsTheTopBits := ⟨noiseShape_eq, fun _ _ _ => rfl⟩

/-! ## The sine ROM (43_shapers.md R192) -/

/-- The entries rise, by at most the first difference. -/
theorem romRead_step {i : Nat} (h : i < 256) : romRead i < romRead (i + 1) ∧ romRead (i + 1) ≤ romRead i + 402 := by
  have hall : ∀ j < 256, romRead j < romRead (j + 1) ∧ romRead (j + 1) ≤ romRead j + 402 := by decide +kernel
  exact hall i h

theorem romRead_last : romRead 256 = 65536 := by decide +kernel

theorem romRead_mono {i j : Nat} (hij : i ≤ j) (hj : j ≤ 256) : romRead i ≤ romRead j := by
  induction j, hij using Nat.le_induction with
  | base => exact le_rfl
  | succ j _ ih => exact (ih (by omega)).trans (romRead_step (by omega)).1.le

/-! ## The sine shaper (43_shapers.md R194) -/

/-- The fold reflects the half-wave's second quarter; bit 31 plays no part. -/
theorem sineFold_eq (p : Word) :
    sineFold p = if p.toNat % 2 ^ 31 < 2 ^ 30 then p.toNat % 2 ^ 31 else 2 ^ 31 - p.toNat % 2 ^ 31 := by
  unfold sineFold slice
  split <;> split <;> omega

theorem sineShape_eq (p : Word) :
    sineShape p = if p.toNat < 2 ^ 31 then (sineInterpolate (sineFold p) : Int) else -sineInterpolate (sineFold p) := by
  rcases sineShape_cases p with ⟨hlow, hs⟩ | ⟨hhigh, hs⟩
  · rw [hs, if_pos hlow]
  · rw [hs, if_neg (by omega)]

theorem sineShape_of_quadrant_zero {p : Word} (h : p.toNat < 2 ^ 30) : sineShape p = sineInterpolate p.toNat := by
  have hfold : sineFold p = p.toNat := by rw [sineFold_eq, if_pos] <;> omega
  rw [sineShape_eq, if_pos (by omega), hfold]

theorem sineShape_quarter_turn : sineShape 0x40000000 = 65536 := by
  have hfold : sineFold 0x40000000 = 2 ^ 30 := by decide
  rw [sineShape_eq, if_pos (by decide), hfold, sineInterpolate_quarter]
  rfl

/-- Half a turn further the fold is the same and the sign is the other. -/
theorem sineShape_add_half_turn (p : Word) : sineShape (p + 0x80000000) = -sineShape p := by
  have hturn : (p + 0x80000000).toNat = (p.toNat + 2 ^ 31) % 2 ^ 32 := BitVec.toNat_add _ _
  have hfold : sineFold (p + 0x80000000) = sineFold p := by
    rw [sineFold_eq, sineFold_eq, show (p + 0x80000000).toNat % 2 ^ 31 = p.toNat % 2 ^ 31 by omega]
  have hp := p.isLt
  rw [sineShape_eq, sineShape_eq, hfold]
  split <;> split <;> omega

/-- The half-wave is its own mirror image: `p` and `2^31 - p` have one fold. -/
theorem sineShape_half_turn_sub {p : Word} (hpos : 0 < p.toNat) (hlow : p.toNat < 2 ^ 31) :
    sineShape (0x80000000 - p) = sineShape p := by
  have hmirror : (0x80000000 - p).toNat = 2 ^ 31 - p.toNat := BitVec.toNat_sub_of_le hlow.le
  have hfold : sineFold (0x80000000 - p) = sineFold p := by
    rw [sineFold_eq, sineFold_eq, hmirror]
    split <;> split <;> omega
  rw [sineShape_eq, sineShape_eq, hfold, if_pos (by omega), if_pos hlow]

/-- Settles O32: the two symmetries, and with them the quarter turns from the first two. -/
theorem sineSymmetriesAreExact : Obligations.SineSymmetriesAreExact := by
  have hzero : sineShape 0 = 0 := (shape_at_phase_zero 0).1
  have hhalf := sineShape_add_half_turn 0
  have hthree := sineShape_add_half_turn 0x40000000
  rw [hzero] at hhalf
  rw [sineShape_quarter_turn] at hthree
  exact ⟨sineShape_add_half_turn, fun _ => sineShape_half_turn_sub, hzero, sineShape_quarter_turn, hhalf, hthree⟩

/-- The interpolated value lies between the two entries around it. -/
theorem sineInterpolate_between {m : Nat} (h : m < 2 ^ 30) :
    romRead (m / 2 ^ 22) ≤ sineInterpolate m ∧ sineInterpolate m ≤ romRead (m / 2 ^ 22 + 1) := by
  obtain ⟨hrise, -⟩ := romRead_step (i := m / 2 ^ 22) (by omega)
  have hpart : (romRead (m / 2 ^ 22 + 1) - romRead (m / 2 ^ 22)) * (m / 2 ^ 6 % 2 ^ 16) / 2 ^ 16 ≤
      romRead (m / 2 ^ 22 + 1) - romRead (m / 2 ^ 22) :=
    Nat.div_le_of_le_mul (by rw [mul_comm]; gcongr; omega)
  rw [sineInterpolate_of_lt h]
  omega

/-- Between two entries the fraction grows with the position; across an entry the ROM does. -/
theorem sineInterpolate_mono {m n : Nat} (hmn : m ≤ n) (hn : n < 2 ^ 30) : sineInterpolate m ≤ sineInterpolate n := by
  rcases (Nat.div_le_div_right hmn : m / 2 ^ 22 ≤ n / 2 ^ 22).eq_or_lt with hidx | hidx
  · rw [sineInterpolate_of_lt hn, sineInterpolate_of_lt (by omega), hidx]
    gcongr _ + _ * ?_ / _
    omega
  · calc sineInterpolate m ≤ romRead (m / 2 ^ 22 + 1) := (sineInterpolate_between (by omega)).2
      _ ≤ romRead (n / 2 ^ 22) := romRead_mono hidx (by omega)
      _ ≤ sineInterpolate n := (sineInterpolate_between hn).1

/-- Settles O33. -/
theorem sineRisesInQuadrantZero : Obligations.SineRisesInQuadrantZero := by
  intro p q hpq hq
  rw [sineShape_of_quadrant_zero hq, sineShape_of_quadrant_zero (by omega)]
  exact_mod_cast sineInterpolate_mono hpq hq

/-- The ROM index and the fraction are read from bit 6 up. -/
theorem sineInterpolate_congr {m n : Nat} (hm : m < 2 ^ 30) (hn : n < 2 ^ 30) (h : m / 2 ^ 6 = n / 2 ^ 6) :
    sineInterpolate m = sineInterpolate n := by
  rw [sineInterpolate_of_lt hm, sineInterpolate_of_lt hn, h, show m / 2 ^ 22 = n / 2 ^ 22 by omega]

/-- At a table point the fraction is 0. -/
theorem sineInterpolate_table_point {i : Nat} (h : i < 256) : sineInterpolate (i * 2 ^ 22) = romRead i := by
  rw [sineInterpolate_of_lt (by omega), show i * 2 ^ 22 / 2 ^ 22 = i by omega,
    show i * 2 ^ 22 / 2 ^ 6 % 2 ^ 16 = 0 by omega, Nat.mul_zero, Nat.zero_div, Nat.add_zero]

theorem sineShape_table_point {i : Nat} (h : i ≤ 256) : sineShape (BitVec.ofNat 32 (i * 2 ^ 22)) = romRead i := by
  rcases h.eq_or_lt with rfl | hlt
  · rw [romRead_last]
    exact sineShape_quarter_turn
  · have hphase : (BitVec.ofNat 32 (i * 2 ^ 22)).toNat = i * 2 ^ 22 :=
      (BitVec.toNat_ofNat _ _).trans (Nat.mod_eq_of_lt (by omega))
    rw [sineShape_of_quadrant_zero (by omega), hphase, sineInterpolate_table_point hlt]

/-- The interpolation as R194 writes it, over the integers: the entries rise, so nothing is cut off by the subtraction of
natural numbers. -/
theorem sineShape_interpolates {p : Word} (h : p.toNat < 2 ^ 30) :
    sineShape p = romRead (p.toNat / 2 ^ 22) +
      (((romRead (p.toNat / 2 ^ 22 + 1) : Int) - romRead (p.toNat / 2 ^ 22)) * (p.toNat / 2 ^ 6 % 2 ^ 16 : Nat)) /
        2 ^ 16 := by
  obtain ⟨hrise, -⟩ := romRead_step (i := p.toNat / 2 ^ 22) (by omega)
  rw [sineShape_of_quadrant_zero h, sineInterpolate_of_lt h, ← Nat.cast_sub hrise.le]
  norm_cast

/-- Settles O34: the interpolation and what follows from it, then the checks of R192. -/
theorem sineDependsOnTheTopBitsAndHitsTheTable : Obligations.SineDependsOnTheTopBitsAndHitsTheTable := by
  refine ⟨fun p => sineShape_interpolates, fun p q hp hq hpq => ?topBits, fun i => sineShape_table_point,
    fun i hi => ?step, by decide +kernel, by decide +kernel, by decide +kernel, romRead_last, by decide +kernel,
    fun i hi => ?rise, by decide +kernel, by decide +kernel⟩
  case topBits =>
    rw [sineShape_of_quadrant_zero hp, sineShape_of_quadrant_zero hq, sineInterpolate_congr hp hq hpq]
  case step =>
    obtain ⟨hrise, hstep⟩ := romRead_step hi
    omega
  case rise =>
    obtain ⟨hrise, -⟩ := romRead_step hi
    omega

/-! ## The ranges (43_shapers.md R207) -/

/-- Settles O31: the sine's ends are its quarter turns, and those of the others are read off their formulas. -/
theorem shapeValuesStayInRange : Obligations.ShapeValuesStayInRange := by
  obtain ⟨-, -, -, hquarter, -, hthree⟩ := sineSymmetriesAreExact
  refine ⟨fun p => shape_range .sine p 0, ⟨_, hquarter⟩, ⟨_, hthree⟩, fun p => ?square, ⟨0, by decide⟩,
    ⟨0x80000000, by decide⟩, fun p => shape_range .triangle p 0, fun p => ?peak, fun p => ?trough, fun p => ?sawtooth,
    fun l => ?noise⟩
  case square => rw [squareShape_eq]; exact ite_eq_or_eq _ _ _
  case peak => rw [triangleShape_eq]; split <;> omega
  case trough => rw [triangleShape_eq]; split <;> omega
  case sawtooth =>
    have hp := p.isLt
    rw [sawtoothShape_eq]
    omega
  case noise =>
    have hlo := l.le_toInt
    have hhi := l.toInt_lt
    rw [noiseShape_eq]
    omega

/-! ## The LFSR (43_shapers.md R201 to R205) -/

/-- The bits that the feedback reaches. -/
theorem lfsrMask_getLsbD {k : Nat} (hk : k < 32) :
    Config.lfsrMask.getLsbD k = (k == 31 || k == 21 || k == 1 || k == 0) := by
  have hall : ∀ j < 32, Config.lfsrMask.getLsbD j = (j == 31 || j == 21 || j == 1 || j == 0) := by decide
  exact hall k hk

theorem lfsrStep_getLsbD (l : Word) (k : Nat) :
    (lfsrStep l).getLsbD k = (l.getLsbD (k + 1) ^^ (l.getLsbD 0 && Config.lfsrMask.getLsbD k)) := by
  unfold lfsrStep
  cases l.getLsbD 0 <;> simp [Nat.add_comm]

/-- Settles O37: the step by its mask, and the mask by its bits. -/
theorem lfsrStepBitByBit : Obligations.LfsrStepBitByBit := fun l k hk => by
  rw [lfsrStep_getLsbD, lfsrMask_getLsbD hk]

/-- Every bit of the step is an XOR of bits of the word. -/
theorem lfsrStep_xor (x y : Word) : lfsrStep (x ^^^ y) = lfsrStep x ^^^ lfsrStep y := by
  refine BitVec.eq_of_getLsbD_eq fun k _ => ?_
  simp only [BitVec.getLsbD_xor, lfsrStep_getLsbD, Bool.and_xor_distrib_right, Bool.xor_assoc, Bool.xor_left_comm]

theorem lfsrSteps_eq_iterate (n : Nat) (l : Word) : lfsrSteps n l = lfsrStep^[n] l := by
  induction n generalizing l with
  | zero => rfl
  | succ n ih => rw [lfsrSteps_succ, ih, Function.iterate_succ_apply]

theorem lfsrAdvance_eq_iterate (l : Word) : lfsrAdvance l = lfsrStep^[32] l := lfsrSteps_eq_iterate 32 l

/-- Linearity carries over to the iterates. -/
theorem lfsrAdvance_xor (x y : Word) : lfsrAdvance (x ^^^ y) = lfsrAdvance x ^^^ lfsrAdvance y := by
  simp only [lfsrAdvance_eq_iterate]
  exact Function.Semiconj₂.iterate lfsrStep_xor 32 x y

theorem lfsrAdvance_zero : lfsrAdvance 0 = 0 := by
  rw [lfsrAdvance_eq_iterate]
  exact Function.iterate_fixed (by decide) 32

/-- A linear map with no non-zero word in its kernel. -/
theorem lfsrAdvance_injective : Function.Injective lfsrAdvance := by
  intro x y hxy
  by_contra hne
  have hdiff : x ^^^ y ≠ 0 := fun h => hne (BitVec.xor_eq_zero_iff.1 h)
  refine lfsrAdvance_ne_zero hdiff ?_
  rw [lfsrAdvance_xor, hxy, BitVec.xor_self]
  rfl

/-- Settles O38: on the finitely many words an injective map is a bijection. -/
theorem lfsrAdvanceIsLinearAndBijective : Obligations.LfsrAdvanceIsLinearAndBijective :=
  have : Finite Word := Finite.of_injective BitVec.toFin fun _ _ => BitVec.eq_of_toFin_eq
  ⟨lfsrAdvance_eq_iterate, lfsrAdvance_xor, Finite.injective_iff_bijective.1 lfsrAdvance_injective, lfsrAdvance_zero⟩

/-- Settles O39: one advance keeps away from 0, so any number of them does. -/
theorem lfsrNeverReachesZero : Obligations.LfsrNeverReachesZero := fun _ n hl =>
  Function.Iterate.rec (· ≠ 0) hl (fun _ => lfsrAdvance_ne_zero) n

end Sys2Proof.Machine

namespace Sys2Proof.Machine

/-! # Rejections (60_exceptions.md R231 to R237) and the idle step (R246) -/

/-- Settles O8: `State.idle` removes the response and changes nothing else. -/
theorem idleStepHoldsTheRegisters : Obligations.IdleStepHoldsTheRegisters :=
  fun _ => step_of_nothing

/-- Settles O11: the rejection with code 1 completes with the registers as they were. -/
theorem unconstructedBlockRejectsAllButConstructors : Obligations.UnconstructedBlockRejectsAllButConstructors :=
  fun _ _ hs hi => exec_of_unconstructed hi hs

/-! ## The status a command answers -/

/-- The verdict on a sample-rate operand (60_exceptions.md R234). -/
def rateStatus (a : Word) : Status := if a.toNat = 0 ∨ 2 ^ 24 ≤ a.toNat then .errSampleRate else .ok

/-- The verdict on a type discriminant, `rest` where it is in range (60_exceptions.md R235). -/
def typeStatus (c : Word) (rest : Status) : Status := if 4 < c.toNat then .errWaveformType else rest

/-- The verdict on a command's operands alone; the type comes before the rate (60_exceptions.md R237). -/
def operandStatus : Instr → Status
  | .new a _ => rateStatus a
  | .newWithType a _ c => typeStatus c (rateStatus a)
  | .setWaveformType a => typeStatus a .ok
  | _ => .ok

/-- The status of command `i` at registers `b`: `CONSTRUCTED` is looked at before any operand (60_exceptions.md R233,
R237). -/
def verdict (i : Instr) (b : Block) : Status :=
  if i.isConstructor = false ∧ b.constructed = false then .errNotConstructed else operandStatus i

theorem verdict_of_constructor {i : Instr} (hi : i.isConstructor = true) (b : Block) : verdict i b = operandStatus i :=
  if_neg (by simp [hi])

theorem verdict_of_constructed {b : Block} (hb : b.constructed = true) (i : Instr) : verdict i b = operandStatus i :=
  if_neg (by simp [hb])

theorem verdict_of_unconstructed {i : Instr} {b : Block} (hi : i.isConstructor = false) (hb : b.constructed = false) :
    verdict i b = .errNotConstructed :=
  if_pos ⟨hi, hb⟩

/-- From `s`, a command with status `st` led to `t`: accepted, with registers and data of its own, or rejected, with the
registers as they were and data 0 (60_exceptions.md R231). -/
inductive Answered (s : State) : Status → State → Prop
  | accepted (b : Block) (d : Data) : Answered s .ok (s.complete b ⟨.ok, d⟩)
  | rejected {cause : Status} (h : cause ≠ .ok) : Answered s cause (s.complete s.toBlock ⟨cause, 0⟩)

theorem Answered.exists_response {s t : State} {st : Status} (h : Answered s st t) : ∃ d, t.rsp = some ⟨st, d⟩ := by
  cases h with
  | accepted b d => exact ⟨d, rfl⟩
  | rejected => exact ⟨0, rfl⟩

/-- A response with another status than `OK` is a rejection's. -/
theorem Answered.eq_of_rejected {s t : State} {st st' : Status} {d : Data} (h : Answered s st t)
    (hrsp : t.rsp = some ⟨st', d⟩) (hst : st' ≠ .ok) : t = s.complete s.toBlock ⟨st', 0⟩ := by
  cases h with
  | accepted =>
    cases hrsp
    exact absurd rfl hst
  | rejected =>
    cases hrsp
    rfl

/-- A guarded command whose operands are never at fault. -/
theorem answered_of_guarded {i : Instr} {s t : State} (hi : i.isConstructor = false) (hop : operandStatus i = .ok)
    (h : (s.constructed = false ∧ t = s.complete s.toBlock ⟨.errNotConstructed, 0⟩) ∨
      (s.constructed = true ∧ ∃ b d, t = s.complete b ⟨.ok, d⟩)) : Answered s (verdict i s.toBlock) t := by
  rcases h with ⟨hs, rfl⟩ | ⟨hs, b, d, rfl⟩
  · rw [verdict_of_unconstructed hi hs]
    exact .rejected (by decide)
  · rw [verdict_of_constructed hs, hop]
    exact .accepted b d

/-- Said once for all sixteen commands: one that answers a next state is accepted or rejected as its verdict says. -/
theorem exec_next_answered {i : Instr} {s t : State} (h : exec i s = .next t) : Answered s (verdict i s.toBlock) t := by
  cases i with
  | new a b =>
    rw [verdict_of_constructor rfl, operandStatus, rateStatus]
    rcases execNew_next h with ⟨ha, rfl⟩ | ⟨_, -, hlo, hhi, rfl⟩
    · rw [if_pos ha]
      exact .rejected (by decide)
    · rw [if_neg (by omega)]
      exact .accepted _ _
  | newWithType a b c =>
    rw [verdict_of_constructor rfl, operandStatus, typeStatus, rateStatus]
    rcases execNewWithType_next h with ⟨hc, rfl⟩ | ⟨hc, ha, rfl⟩ | ⟨_, _, -, hc, -, hlo, hhi, rfl⟩
    · rw [if_pos hc]
      exact .rejected (by decide)
    · rw [if_neg (by omega), if_pos ha]
      exact .rejected (by decide)
    · rw [if_neg (by omega), if_neg (by omega)]
      exact .accepted _ _
  | default =>
    rw [verdict_of_constructor rfl, execDefault_next h]
    exact .accepted _ _
  | setWaveformType a =>
    rcases execSetWaveformType_next h with ⟨hs, rfl⟩ | ⟨hs, ha, rfl⟩ | ⟨hs, _, -, ha, rfl⟩
    · rw [verdict_of_unconstructed rfl hs]
      exact .rejected (by decide)
    · rw [verdict_of_constructed hs, operandStatus, typeStatus, if_pos ha]
      exact .rejected (by decide)
    · rw [verdict_of_constructed hs, operandStatus, typeStatus, if_neg (by omega)]
      exact .accepted _ _
  | process =>
    exact answered_of_guarded rfl rfl ((execProcess_next h).imp_right fun ⟨hs, _, _, ht⟩ => ⟨hs, _, _, ht⟩)
  | getWaveformName =>
    exact answered_of_guarded rfl rfl ((execGetWaveformName_next h).imp_right fun ⟨hs, _, _, ht⟩ => ⟨hs, _, _, ht⟩)
  | setFrequency a =>
    exact answered_of_guarded rfl rfl ((execSetFrequency_next h).imp_right fun ⟨hs, _, ht⟩ => ⟨hs, _, _, ht⟩)
  | reset | setAmplitude | setDcOffset | setPhaseOffset | getFrequency | getAmplitude | getDcOffset | getPhaseOffset
  | getWaveformType =>
    unfold exec at h
    exact answered_of_guarded rfl rfl ((perform_answer_next h).imp_right fun ⟨hs, ht⟩ => ⟨hs, _, _, ht⟩)

/-! ## Each cause of rejection (60_exceptions.md R232) -/

theorem rateStatus_eq_errSampleRate_iff (a : Word) :
    rateStatus a = .errSampleRate ↔ a.toNat = 0 ∨ 2 ^ 24 ≤ a.toNat := by
  unfold rateStatus
  split
  · next h => exact iff_of_true rfl h
  · next h => exact iff_of_false (by decide) h

theorem rateStatus_ne {a : Word} {st : Status} (hok : st ≠ .ok) (hrate : st ≠ .errSampleRate) : rateStatus a ≠ st := by
  unfold rateStatus
  split
  · exact hrate.symm
  · exact hok.symm

theorem typeStatus_eq_errWaveformType_iff {c : Word} {rest : Status} (hrest : rest ≠ .errWaveformType) :
    typeStatus c rest = .errWaveformType ↔ 4 < c.toNat := by
  simp [typeStatus, hrest]

theorem typeStatus_eq_iff {c : Word} {rest st : Status} (hst : st ≠ .errWaveformType) :
    typeStatus c rest = st ↔ c.toNat ≤ 4 ∧ rest = st := by
  unfold typeStatus
  split
  · exact iff_of_false hst.symm (by omega)
  · exact (and_iff_right (by omega)).symm

theorem operandStatus_ne_errNotConstructed (i : Instr) : operandStatus i ≠ .errNotConstructed := by
  have hrate (a : Word) : rateStatus a ≠ .errNotConstructed := rateStatus_ne (by decide) (by decide)
  cases i with
  | new a b => exact hrate a
  | newWithType a b c => exact fun h => hrate a ((typeStatus_eq_iff (by decide)).1 h).2
  | setWaveformType a => exact fun h => by cases ((typeStatus_eq_iff (by decide)).1 h).2
  | _ => exact Status.noConfusion

theorem verdict_eq_errNotConstructed_iff (i : Instr) (b : Block) :
    verdict i b = .errNotConstructed ↔ i.isConstructor = false ∧ b.constructed = false := by
  simp [verdict, operandStatus_ne_errNotConstructed]

/-- Any other cause is found in the operands, once the block is constructed or the command constructs it. -/
theorem verdict_eq_iff {i : Instr} {b : Block} {st : Status} (hst : st ≠ .errNotConstructed) :
    verdict i b = st ↔ (i.isConstructor = true ∨ b.constructed = true) ∧ operandStatus i = st := by
  unfold verdict
  split
  · next h => exact iff_of_false hst.symm (by simp [h])
  · next h =>
    have hreached : i.isConstructor = true ∨ b.constructed = true := by
      simpa only [not_and_or, Bool.not_eq_false] using h
    simp [hreached]

theorem verdict_eq_errWaveformType_iff (i : Instr) (b : Block) :
    verdict i b = .errWaveformType ↔
      (∃ a, i = .setWaveformType a ∧ 4 < a.toNat ∧ b.constructed = true) ∨
      (∃ a b c, i = .newWithType a b c ∧ 4 < c.toNat) := by
  have hrate (a : Word) : rateStatus a ≠ .errWaveformType := rateStatus_ne (by decide) (by decide)
  rw [verdict_eq_iff (by decide)]
  cases i with
  | new a b => simp [operandStatus, hrate]
  | newWithType a b c => simp [operandStatus, typeStatus_eq_errWaveformType_iff (hrate a), Instr.isConstructor]
  | setWaveformType a =>
    simp [operandStatus, typeStatus_eq_errWaveformType_iff (rest := .ok) (by decide), Instr.isConstructor, and_comm]
  | _ => simp [operandStatus]

theorem verdict_eq_errSampleRate_iff (i : Instr) (b : Block) :
    verdict i b = .errSampleRate ↔
      (∃ a b, i = .new a b ∧ (a.toNat = 0 ∨ 2 ^ 24 ≤ a.toNat)) ∨
      (∃ a b c, i = .newWithType a b c ∧ c.toNat ≤ 4 ∧ (a.toNat = 0 ∨ 2 ^ 24 ≤ a.toNat)) := by
  rw [verdict_eq_iff (by decide)]
  cases i with
  | new a b => simp [operandStatus, rateStatus_eq_errSampleRate_iff, Instr.isConstructor]
  | newWithType a b c =>
    simp [operandStatus, typeStatus_eq_iff, rateStatus_eq_errSampleRate_iff, Instr.isConstructor]
  | setWaveformType a => simp [operandStatus, typeStatus_eq_iff]
  | _ => simp [operandStatus]

/-! ## The obligations -/

/-- Settles O12: the status answered is the verdict, and each verdict has its causes. -/
theorem onlyTheListedCausesReject : Obligations.OnlyTheListedCausesReject := by
  intro i s t hexec
  obtain ⟨d, hrsp⟩ := (exec_next_answered hexec).exists_response
  exact ⟨_, d, hrsp, verdict_eq_errNotConstructed_iff i _, verdict_eq_errWaveformType_iff i _,
    verdict_eq_errSampleRate_iff i _, rfl, rfl, rfl⟩

/-- Settles O13: a rejection completes with the registers as they were. -/
theorem rejectionChangesNoRegister : Obligations.RejectionChangesNoRegister :=
  fun _ _ _ _ _ hexec hrsp hst => (exec_next_answered hexec).eq_of_rejected hrsp hst

end Sys2Proof.Machine

namespace Sys2Proof.Machine

/-! # The hardware reset as an event (70_reset_and_hazards.md R260) -/

/-- Settles O9: the step takes `rst` from the host and resets, and each clause is the reset's law for that flag or port. The
nine data registers are free (R261), and no clause speaks of them. -/
theorem hardwareResetEventClearsConstructed : Obligations.HardwareResetEventClearsConstructed :=
  fun s _ hhost =>
    ⟨_, step_of_hardwareReset hhost, Block.afterHardwareReset_constructed s.draws, State.hardwareReset_rsp _,
      State.hardwareReset_host _, State.hardwareReset_seedOk _, State.hardwareReset_seedIn _,
      State.hardwareReset_draws _⟩

end Sys2Proof.Machine
